-- ==== Sys2Proof/Word.lean ====
section
/-! DEFINITION. The word types of the pycrc CRC core and their plainest arithmetic
(00_scope.md R8, R12; 10_state.md R31, R32). -/

namespace Sys2Proof

/-- A 64-bit datapath word: every control register, table entry, operand and result (R8). -/
abbrev Word := BitVec 64

/-- A message byte (R14), an 8-bit completion code (R32) or an 8-bit table index (R97). -/
abbrev Byte := BitVec 8

/-- The 32-bit command word `CMD` (R90). -/
abbrev CmdWord := BitVec 32

/-- A one-bit field as a word, worth 0 or 1. -/
def bitWord (b : Bool) : Word := if b then 1 else 0

end Sys2Proof
end

