-- ==== Sys2Proof/Config.lean ====
section
/-! DEFINITION. What the implementation fixes (00_scope.md R7 to R11).
The spec leaves no parameter open ("No parameter is left open", R11; "no rule of this spec draws a value", R33), so
there is no opaque constant and no free value here. -/

namespace Sys2Proof.Config

/-- The least CRC width (R7). -/
abbrev minWidth : Nat := 1

/-- The greatest CRC width (R7), which is also the datapath's width (R8) and REFLECT's greatest `RW` (R95). -/
abbrev maxWidth : Nat := 64

/-- The number of table entries (R9). -/
abbrev tableEntries : Nat := 256

end Sys2Proof.Config
end

