-- ==== Sys2Proof/Syntax.lean ====
section
/-! DEFINITION. The commands of the core as syntax: one constructor per row of the opcode map
(30_encoding.md R99), with the fields its format carries (R92). The 64-bit operand `OPA` and the message `MSG` are no
part of the command word: they come with the transaction (10_state.md R31), and R101 says that decoding never
reads them. -/

namespace Sys2Proof

/-- The five formats of R92. -/
inductive Format where
  /-- no operand (R93) -/
  | n
  /-- CSR number in bits 11:0 (R94) -/
  | c
  /-- reflection width in bits 6:0 (R95) -/
  | w
  /-- message; `OPA` is its length (R96) -/
  | m
  /-- table index in bits 7:0 (R97) -/
  | i
deriving DecidableEq, Repr

/-- The 16 commands of R99. -/
inductive Instr where
  /-- NOP, opcode 0x00 (R190) -/
  | nop
  /-- RDCSR, opcode 0x01 (R191) -/
  | rdcsr (csr : BitVec 12)
  /-- WRCSR, opcode 0x02 (R192) -/
  | wrcsr (csr : BitVec 12)
  /-- CONFIGURE, opcode 0x03 (R194) -/
  | configure
  /-- BIND, opcode 0x04 (R195) -/
  | bind
  /-- REFLECT, opcode 0x10 (R122) -/
  | reflect (rw : BitVec 7)
  /-- REF_MSB, opcode 0x20 (R139) -/
  | refMsb
  /-- REF_LSB, opcode 0x21 (R140) -/
  | refLsb
  /-- REF_CRC, opcode 0x22 (R141) -/
  | refCrc
  /-- TBL_BUILD_MSB, opcode 0x30 (R155) -/
  | tblBuildMsb
  /-- TBL_BUILD_LSB, opcode 0x31 (R156) -/
  | tblBuildLsb
  /-- TBL_BUILD, opcode 0x32 (R157) -/
  | tblBuild
  /-- TBL_READ, opcode 0x33 (R158) -/
  | tblRead (idx : BitVec 8)
  /-- TBL_MSB, opcode 0x40 (R174) -/
  | tblMsb
  /-- TBL_LSB, opcode 0x41 (R175) -/
  | tblLsb
  /-- CRC, opcode 0x42 (R196) -/
  | crc
deriving DecidableEq, Repr

/-- The format of a command (R99, third column). -/
def Instr.format : Instr → Format
  | .nop => .n
  | .rdcsr _ => .c
  | .wrcsr _ => .c
  | .configure => .n
  | .bind => .n
  | .reflect _ => .w
  | .refMsb => .m
  | .refLsb => .m
  | .refCrc => .m
  | .tblBuildMsb => .n
  | .tblBuildLsb => .n
  | .tblBuild => .n
  | .tblRead _ => .i
  | .tblMsb => .m
  | .tblLsb => .m
  | .crc => .m

end Sys2Proof
end

