-- ==== Sys2Proof/WellFormed.lean ====
section
/-! DEFINITION. Which commands as syntax are legal. A CSR number has 12 bits, a table index 8 and a reflection width
7 by their types, so the one check left is R95's: an `RW` above 64 is illegal. A CSR number that names no register
is well formed: R100 says it is no decode error but is raised by RDCSR and WRCSR themselves. -/

namespace Sys2Proof

/-- The command is legal as a command word (R100). -/
def WellFormed : Instr → Bool
  | .nop => true
  | .rdcsr _ => true
  | .wrcsr _ => true
  | .configure => true
  | .bind => true
  | .reflect rw => decide (rw.toNat ≤ Config.maxWidth)
  | .refMsb => true
  | .refLsb => true
  | .refCrc => true
  | .tblBuildMsb => true
  | .tblBuildLsb => true
  | .tblBuild => true
  | .tblRead _ => true
  | .tblMsb => true
  | .tblLsb => true
  | .crc => true

end Sys2Proof
end

