-- ==== Sys2Proof/Decode.lean ====
section
/-! DEFINITION. Decoding a command word, total on the `2^32` words, and encoding a command (30_encoding.md R90 to R106).
Decoding reads only `CMD` (R101). Every rejection has a name; all three raise ILLEGAL_COMMAND (R100). -/

namespace Sys2Proof

/-- Why a command word is illegal: the three cases of R100. -/
inductive Illegal where
  /-- `OPC` is not in the opcode map (R100, case 1). -/
  | unassignedOpcode
  /-- A field that must be zero is not (R100, case 2). -/
  | reservedField
  /-- REFLECT with `RW` above 64 (R100, case 3). -/
  | reflectWidth
deriving DecidableEq, Repr

/-- `OPC = CMD[31:24]` (R91). -/
def opcodeOf (c : CmdWord) : BitVec 8 := c.extractLsb' 24 8

/-- The format an opcode fixes, alone (R91, R99); none for an unassigned opcode. -/
def formatOfOpcode (opc : BitVec 8) : Option Format :=
  match opc with
  | 0x00#8 => some .n
  | 0x01#8 => some .c
  | 0x02#8 => some .c
  | 0x03#8 => some .n
  | 0x04#8 => some .n
  | 0x10#8 => some .w
  | 0x20#8 => some .m
  | 0x21#8 => some .m
  | 0x22#8 => some .m
  | 0x30#8 => some .n
  | 0x31#8 => some .n
  | 0x32#8 => some .n
  | 0x33#8 => some .i
  | 0x40#8 => some .m
  | 0x41#8 => some .m
  | 0x42#8 => some .m
  | _ => none

/-- Format N: `CMD[23:0]` must be 0 (R93). -/
def decodeN (c : CmdWord) (i : Instr) : Except Illegal Instr :=
  if c.extractLsb' 0 24 = 0#24 then .ok i else .error .reservedField

/-- Format C: `CSR = CMD[11:0]`, and `CMD[23:12]` must be 0 (R94). -/
def decodeC (c : CmdWord) (mk : BitVec 12 → Instr) : Except Illegal Instr :=
  if c.extractLsb' 12 12 = 0#12 then .ok (mk (c.extractLsb' 0 12)) else .error .reservedField

/-- Format W: `RW = CMD[6:0]`, at most 64, and `CMD[23:7]` must be 0 (R95). -/
def decodeW (c : CmdWord) (mk : BitVec 7 → Instr) : Except Illegal Instr :=
  if c.extractLsb' 7 17 = 0#17 then
    if (c.extractLsb' 0 7).toNat ≤ Config.maxWidth then .ok (mk (c.extractLsb' 0 7)) else .error .reflectWidth
  else .error .reservedField

/-- Format M: `CMD[23:0]` must be 0 (R96). -/
def decodeM (c : CmdWord) (i : Instr) : Except Illegal Instr :=
  if c.extractLsb' 0 24 = 0#24 then .ok i else .error .reservedField

/-- Format I: `IDX = CMD[7:0]`, and `CMD[23:8]` must be 0 (R97). -/
def decodeI (c : CmdWord) (mk : BitVec 8 → Instr) : Except Illegal Instr :=
  if c.extractLsb' 8 16 = 0#16 then .ok (mk (c.extractLsb' 0 8)) else .error .reservedField

/-- The opcode map (R99), total (R101). -/
def decode (c : CmdWord) : Except Illegal Instr :=
  match opcodeOf c with
  | 0x00#8 => decodeN c .nop
  | 0x01#8 => decodeC c .rdcsr
  | 0x02#8 => decodeC c .wrcsr
  | 0x03#8 => decodeN c .configure
  | 0x04#8 => decodeN c .bind
  | 0x10#8 => decodeW c .reflect
  | 0x20#8 => decodeM c .refMsb
  | 0x21#8 => decodeM c .refLsb
  | 0x22#8 => decodeM c .refCrc
  | 0x30#8 => decodeN c .tblBuildMsb
  | 0x31#8 => decodeN c .tblBuildLsb
  | 0x32#8 => decodeN c .tblBuild
  | 0x33#8 => decodeI c .tblRead
  | 0x40#8 => decodeM c .tblMsb
  | 0x41#8 => decodeM c .tblLsb
  | 0x42#8 => decodeM c .crc
  | _ => .error .unassignedOpcode

/-- The opcode of a command (R99, first column). -/
def opcode : Instr → BitVec 8
  | .nop => 0x00#8
  | .rdcsr _ => 0x01#8
  | .wrcsr _ => 0x02#8
  | .configure => 0x03#8
  | .bind => 0x04#8
  | .reflect _ => 0x10#8
  | .refMsb => 0x20#8
  | .refLsb => 0x21#8
  | .refCrc => 0x22#8
  | .tblBuildMsb => 0x30#8
  | .tblBuildLsb => 0x31#8
  | .tblBuild => 0x32#8
  | .tblRead _ => 0x33#8
  | .tblMsb => 0x40#8
  | .tblLsb => 0x41#8
  | .crc => 0x42#8

/-- The operand field of a command word: `CSR`, `RW` or `IDX`, and 0 for formats N and M (R105). -/
def operandField : Instr → BitVec 24
  | .nop => 0
  | .rdcsr csr => csr.setWidth 24
  | .wrcsr csr => csr.setWidth 24
  | .configure => 0
  | .bind => 0
  | .reflect rw => rw.setWidth 24
  | .refMsb => 0
  | .refLsb => 0
  | .refCrc => 0
  | .tblBuildMsb => 0
  | .tblBuildLsb => 0
  | .tblBuild => 0
  | .tblRead idx => idx.setWidth 24
  | .tblMsb => 0
  | .tblLsb => 0
  | .crc => 0

/-- `CMD = (OPC << 24) OR field` (R105). -/
def encode (i : Instr) : CmdWord := ((opcode i).setWidth 32 <<< 24) ||| (operandField i).setWidth 32

/-- The mask of a command's row of opcode_table.json: the bits the row fixes. -/
def rowMask : Instr → CmdWord
  | .nop => 0xFFFFFFFF#32
  | .rdcsr _ => 0xFFFFF000#32
  | .wrcsr _ => 0xFFFFF000#32
  | .configure => 0xFFFFFFFF#32
  | .bind => 0xFFFFFFFF#32
  | .reflect _ => 0xFFFFFF80#32
  | .refMsb => 0xFFFFFFFF#32
  | .refLsb => 0xFFFFFFFF#32
  | .refCrc => 0xFFFFFFFF#32
  | .tblBuildMsb => 0xFFFFFFFF#32
  | .tblBuildLsb => 0xFFFFFFFF#32
  | .tblBuild => 0xFFFFFFFF#32
  | .tblRead _ => 0xFFFFFF00#32
  | .tblMsb => 0xFFFFFFFF#32
  | .tblLsb => 0xFFFFFFFF#32
  | .crc => 0xFFFFFFFF#32

/-- The match of a command's row of opcode_table.json: the values of those bits. -/
def rowMatch : Instr → CmdWord
  | .nop => 0x00000000#32
  | .rdcsr _ => 0x01000000#32
  | .wrcsr _ => 0x02000000#32
  | .configure => 0x03000000#32
  | .bind => 0x04000000#32
  | .reflect _ => 0x10000000#32
  | .refMsb => 0x20000000#32
  | .refLsb => 0x21000000#32
  | .refCrc => 0x22000000#32
  | .tblBuildMsb => 0x30000000#32
  | .tblBuildLsb => 0x31000000#32
  | .tblBuild => 0x32000000#32
  | .tblRead _ => 0x33000000#32
  | .tblMsb => 0x40000000#32
  | .tblLsb => 0x41000000#32
  | .crc => 0x42000000#32

/-- The host's numbering of a table word: bit 0 is the least significant bit of the one 32-bit word a command
has (R90); bits above `nbits` are 0. The core gives `CMD` no byte order (20_memory.md R76). -/
def decodeTableWord (nbits w : Nat) : Option Instr :=
  match decode (BitVec.ofNat 32 (w % 2 ^ nbits)) with
  | .ok i => some i
  | .error _ => none

end Sys2Proof
end

