-- ==== Sys2Proof/Machine/State.lean ====
section
/-! DEFINITION. The state of the core as plain data (10_state.md R52), the transactions and responses of its one port
(R31, R32, R51), the reasons a step can stop, and the state after reset (70_reset_and_hazards.md R250). -/

namespace Sys2Proof.Machine

/-- The bit-order convention a table was built for (R45; glossary R18). -/
inductive Shape where
  /-- 0: MSB-oriented -/
  | msb
  /-- 1: LSB-oriented -/
  | lsb
deriving DecidableEq, Repr

/-- The named completion codes (60_exceptions.md R220). -/
inductive Code where
  /-- 0: the command succeeded -/
  | ok
  /-- 1: CONFIGURE or BIND with CFG_WIDTH outside 1..64 (R221) -/
  | invalidParameters
  /-- 2: an illegal command word, or a CSR number that cannot be accessed so (R222) -/
  | illegalCommand
  /-- 3: a command that needs the active parameter set while PARAMS_VALID = 0 (R223) -/
  | notConfigured
  /-- 4: the table does not match, or none was built (R224) -/
  | noTable
  /-- 5: reserved for host software, never raised by the core (R225) -/
  | unknownAlgorithm
deriving DecidableEq, Repr

/-- The assigned control and status registers (R36). -/
inductive Csr where
  | id | cfgWidth | cfgPoly | cfgInit | cfgXorout | cfgFlags
  | parWidth | parPoly | parInit | parXorout | parFlags
  | status | tblWidth | tblPoly | tblEntryBytes
deriving DecidableEq, Repr

/-- The parameter set `P = (w, poly, init, refin, refout, xorout)` the engines take (00_scope.md R16). -/
structure Params where
  w      : Nat
  poly   : Word
  init   : Word
  refin  : Bool
  refout : Bool
  xorout : Word
deriving DecidableEq, Repr

/-- The lookup table: 256 entries of 64 bits (R44). -/
abbrev Table := Vector Word 256

/-- A command transaction `T = (CMD, OPA, MSG)` (R31). -/
structure Transaction where
  cmd : CmdWord
  opa : Word
  msg : List Byte
deriving DecidableEq, Repr

/-- A response `(CODE, RESULT)` (R32). -/
structure Response where
  code   : Byte
  result : Word
deriving DecidableEq, Repr

/-- One move of the host (R51): a command, a reset between commands, or a reset that comes before the response to a
command it abandons (R250, last paragraph). The transaction of a `resetDuring` may be any: the spec leaves open a reset
during one that breaks the message-length duty (DESIGN CHOICE, log entry 15). -/
inductive HostMove where
  | command (t : Transaction)
  | reset
  | resetDuring (t : Transaction)
deriving DecidableEq, Repr

/-- No command and no event stops this hardware: an error is a completion code (R220, R230) and every command
completes (R261). So there is no fault, and nothing raises one. -/
inductive Fault where
deriving DecidableEq, Repr

/-- Why a step is refused. -/
inductive Refusal where
  /-- Raised by exec's own arm for an instruction that has no meaning yet; no arm of this model does. Safe: the model
  stops where the hardware goes on. -/
  | notModelled (mnemonic : String)
  /-- Raised by `step` for a transaction whose message length is not what R31 requires: "the model gives it no step"
  (R51, R259; 93_implementation_defined.md item 4). Safe: the model stops where the hardware does something
  the spec does not say. -/
  | notATransaction
deriving DecidableEq, Repr

/-- "The state of the core is exactly this" (R52): its fields, in its order, "and no others". -/
structure CoreState where
  /-- CFG_WIDTH (R37) -/
  cfgWidth    : Word
  /-- CFG_POLY (R38) -/
  cfgPoly     : Word
  /-- CFG_INIT (R38) -/
  cfgInit     : Word
  /-- CFG_XOROUT (R38) -/
  cfgXorout   : Word
  /-- CFG_FLAGS bit 0 (R39) -/
  cfgRefin    : Bool
  /-- CFG_FLAGS bit 1 (R39) -/
  cfgRefout   : Bool
  /-- PAR_WIDTH (R40) -/
  parWidth    : Word
  /-- PAR_POLY (R40) -/
  parPoly     : Word
  /-- PAR_INIT (R40) -/
  parInit     : Word
  /-- PAR_XOROUT (R40) -/
  parXorout   : Word
  /-- PAR_FLAGS bit 0 (R41) -/
  parRefin    : Bool
  /-- PAR_FLAGS bit 1 (R41) -/
  parRefout   : Bool
  /-- PARAMS_VALID, STATUS bit 0 (R42) -/
  paramsValid : Bool
  /-- TABLE (R44) -/
  table       : Table
  /-- TABLE_VALID, STATUS bit 1 (R45) -/
  tableValid  : Bool
  /-- TBL_SHAPE, STATUS bit 2 (R45) -/
  tblShape    : Shape
  /-- TBL_WIDTH (R45) -/
  tblWidth    : Word
  /-- TBL_POLY (R45) -/
  tblPoly     : Word
  /-- ERR, STATUS bit 3 (R48) -/
  err         : Bool
  /-- LAST_CODE, STATUS bits 15:8 (R49) -/
  lastCode    : Byte
deriving DecidableEq, Repr

/-- The machine: the state of the core, and the host's side of its port. The two fields of the port are the MODEL's own,
for `step` takes no other argument (DESIGN CHOICE, log entries 1 and 2). -/
structure State extends CoreState where
  /-- The host's moves still to come, in the order it issues them (R51, R80); a command at the head is the one in
  flight (R258). -/
  host     : List HostMove
  /-- The response to the last completed command, if one was sent since reset (R32, R51). -/
  response : Option Response
deriving DecidableEq, Repr

/-- The state of the core after reset (R250; last column of R36). TABLE after reset is "any value" (R251): DESIGN CHOICE
all zero, log entry 3; no statement rests on it. -/
def CoreState.reset : CoreState where
  cfgWidth    := 0
  cfgPoly     := 0
  cfgInit     := 0
  cfgXorout   := 0
  cfgRefin    := false
  cfgRefout   := false
  parWidth    := 0
  parPoly     := 0
  parInit     := 0
  parXorout   := 0
  parRefin    := false
  parRefout   := false
  paramsValid := false
  table       := Vector.replicate 256 0
  tableValid  := false
  tblShape    := .msb
  tblWidth    := 0
  tblPoly     := 0
  err         := false
  lastCode    := 0

/-- The machine after reset: the core as reset leaves it, with no host move to come and no response sent (DESIGN CHOICE,
log entries 1 and 2). -/
def State.reset : State where
  toCoreState := CoreState.reset
  host        := []
  response    := none

end Sys2Proof.Machine
end

