-- ==== Sys2Proof/Machine/Operands.lean ====
section
/-! DEFINITION. Where a command's operands come from: the transaction in flight (30_encoding.md R92, R98), the active
parameter registers (10_state.md R40) and the CSR numbers (R36); the mask (00_scope.md R13) and the table shape a
flag selects. -/

namespace Sys2Proof.Machine

/-- `mask(w) = 2^w - 1`, for `w` up to 64 (R13). -/
def mask (w : Nat) : Word := BitVec.ofNat 64 (2 ^ w - 1)

/-- The transaction in flight (R31): the host's next move when it is a command. -/
def inFlight (s : State) : Option Transaction :=
  match s.host with
  | .command t :: _ => some t
  | _ => none

/-- `OPA`, the operand of the command in flight (R98). -/
def opa (s : State) : Word :=
  match inFlight s with
  | some t => t.opa
  | none => 0

/-- `MSG`, the message of the command in flight (R15, R73). -/
def msg (s : State) : List Byte :=
  match inFlight s with
  | some t => t.msg
  | none => []

/-- Whether a transaction is one the host may send (R31, R51): `len(MSG) = OPA` for the message format, and `MSG` empty
otherwise. The opcode alone fixes the format (R91); an unassigned opcode has none, so its `MSG` is empty (DEDUCED, log
entry 4). -/
def deliverable (t : Transaction) : Bool :=
  match formatOfOpcode (opcodeOf t.cmd) with
  | some .m => t.msg.length == t.opa.toNat
  | _ => t.msg.isEmpty

/-- The active parameter set `P` (R16, R40). -/
def params (s : State) : Params where
  w      := s.parWidth.toNat
  poly   := s.parPoly
  init   := s.parInit
  refin  := s.parRefin
  refout := s.parRefout
  xorout := s.parXorout

/-- The register a 12-bit CSR number names (R36); none for an unassigned number. -/
def csrNamed (n : BitVec 12) : Option Csr :=
  match n with
  | 0x000#12 => some .id
  | 0x001#12 => some .cfgWidth
  | 0x002#12 => some .cfgPoly
  | 0x003#12 => some .cfgInit
  | 0x004#12 => some .cfgXorout
  | 0x005#12 => some .cfgFlags
  | 0x011#12 => some .parWidth
  | 0x012#12 => some .parPoly
  | 0x013#12 => some .parInit
  | 0x014#12 => some .parXorout
  | 0x015#12 => some .parFlags
  | 0x020#12 => some .status
  | 0x021#12 => some .tblWidth
  | 0x022#12 => some .tblPoly
  | 0x023#12 => some .tblEntryBytes
  | _ => none

/-- The table shape `refin` selects (R170): 0 the MSB table, 1 the LSB table. -/
def shapeOfRefin (refin : Bool) : Shape := if refin then .lsb else .msb

end Sys2Proof.Machine
end

