-- ==== Sys2Proof/Machine/Flags.lean ====
section
/-! DEFINITION. The one-bit and eight-bit fields of STATUS, CFG_FLAGS and PAR_FLAGS: how they stand in a register word
(10_state.md R39, R41, R47) and how a completion or a write changes them (R48; 60_exceptions.md R229). -/

namespace Sys2Proof.Machine

/-- The 8-bit number of a completion code (R220). -/
def codeNumber : Code → Byte
  | .ok => 0
  | .invalidParameters => 1
  | .illegalCommand => 2
  | .notConfigured => 3
  | .noTable => 4
  | .unknownAlgorithm => 5

/-- The TBL_SHAPE bit (R45): 0 for MSB, 1 for LSB. -/
def shapeBit : Shape → Bool
  | .msb => false
  | .lsb => true

/-- A flags register as read: REFIN in bit 0, REFOUT in bit 1, zeros above (R39, R41). -/
def flagsWord (refin refout : Bool) : Word := bitWord refin ||| (bitWord refout <<< 1)

/-- STATUS as read (R47, R191); its reserved bits read as 0. -/
def statusWord (s : State) : Word :=
  bitWord s.paramsValid ||| (bitWord s.tableValid <<< 1) ||| (bitWord (shapeBit s.tblShape) <<< 2)
    ||| (bitWord s.err <<< 3) ||| (s.lastCode.setWidth 64 <<< 8)

/-- ERR after a completion with code `c`: set by a non-zero code, else as it was (R48, R229). -/
def errAfter (c : Code) (err : Bool) : Bool := if codeNumber c = 0 then err else true

/-- ERR after a write of `v` to STATUS: cleared when `v[3] = 1` (R48, R192). -/
def errAfterStatusWrite (v : Word) (err : Bool) : Bool := if v.getLsbD 3 then false else err

end Sys2Proof.Machine
end

