-- ==== Sys2Proof/Machine/Ops.lean ====
section
/-! DEFINITION. The shared operations: ending a command with a result or an error (60_exceptions.md R228, R229), reading
and writing a CSR (10_state.md R36), reading and writing a table entry (20_memory.md R72), installing a table
(42_table_builder.md R154), and the host's moves that are no command (R250, R252).

An error is how this core takes an exception. There is no trap entry, no handler and no return from one (R230). -/

namespace Sys2Proof.Machine

/-- What a meaning answers. -/
abbrev Result := Host.Outcome State Fault Refusal

/-- The end of every command (R229): LAST_CODE becomes the code, ERR is set by a non-zero one, the response is sent, and
the transaction is gone with its message (R73). -/
def complete (c : Code) (result : Word) (s : State) : State :=
  { s with
    lastCode := codeNumber c
    err := errAfter c s.err
    response := some { code := codeNumber c, result := result }
    host := s.host.tail }

/-- `respond(v)`: the command ends with code OK and result `v` (R15, R229). -/
def respond (v : Word) (s : State) : Result := .next (complete .ok v s)

/-- `raise Error(c)`: the command ends with code `c` and result 0, and no other state is written (R15, R228, R229). -/
def raise (c : Code) (s : State) : Result := .next (complete c 0 s)

/-- An illegal command word (R100): ILLEGAL_COMMAND, whatever the case. -/
def raiseIllegalWord (_why : Illegal) (s : State) : Result := raise .illegalCommand s

/-- ID, the identification constant (R50). -/
def idConstant : Word := 0x5059435243000007

/-- A CSR as RDCSR reads it (R36, R191); every register is readable. -/
def readCsr (r : Csr) (s : State) : Word :=
  match r with
  | .id => idConstant
  | .cfgWidth => s.cfgWidth
  | .cfgPoly => s.cfgPoly
  | .cfgInit => s.cfgInit
  | .cfgXorout => s.cfgXorout
  | .cfgFlags => flagsWord s.cfgRefin s.cfgRefout
  | .parWidth => s.parWidth
  | .parPoly => s.parPoly
  | .parInit => s.parInit
  | .parXorout => s.parXorout
  | .parFlags => flagsWord s.parRefin s.parRefout
  | .status => statusWord s
  | .tblWidth => s.tblWidth
  | .tblPoly => s.tblPoly
  | .tblEntryBytes => BitVec.ofNat 64 ((s.tblWidth.toNat + 7) >>> 3)

/-- A CSR as WRCSR writes it (R36, R192); none for a read-only register. -/
def writeCsr (r : Csr) (v : Word) (s : State) : Option State :=
  match r with
  | .cfgWidth => some { s with cfgWidth := v }
  | .cfgPoly => some { s with cfgPoly := v }
  | .cfgInit => some { s with cfgInit := v }
  | .cfgXorout => some { s with cfgXorout := v }
  | .cfgFlags => some { s with cfgRefin := v.getLsbD 0, cfgRefout := v.getLsbD 1 }
  | .status => some { s with err := errAfterStatusWrite v s.err }
  | .id => none
  | .parWidth => none
  | .parPoly => none
  | .parInit => none
  | .parXorout => none
  | .parFlags => none
  | .tblWidth => none
  | .tblPoly => none
  | .tblEntryBytes => none

/-- `TABLE[k]`, a whole entry by direct index (R44, R72). -/
def tableEntry (T : Table) (k : Byte) : Word := T[k.toNat]'k.isLt

/-- Entry `k` of a table under construction; no construction asks for a `k` of 256 or more. -/
def entryAt (T : Table) (k : Nat) : Word := if h : k < 256 then T[k] else 0

/-- Write entry `k` of a table under construction. -/
def setEntry (T : Table) (k : Nat) (v : Word) : Table := if h : k < 256 then T.set k v else T

/-- Reset (R250): every field takes its reset value, a command in flight is abandoned and gets no response. The host's
later moves stay (log entry 5). -/
def takeReset (s : State) : Result := .next { State.reset with host := s.host.tail }

/-- With no move of the host the engine is idle (R252): it starts nothing on its own (R30). DEDUCED that this is a step
which changes nothing (log entry 6). -/
def stayIdle (s : State) : Result := .next s

end Sys2Proof.Machine
end

