-- ==== Sys2Proof/Machine/Reflector.lean ====
section
/-! DEFINITION. The BitReflector (40_bit_reflector.md): `reflect` and the REFLECT command. -/

namespace Sys2Proof.Machine

/-- One turn of the loop of R120: bit `i` of `v`, when set, sets bit `w - 1 - i` of the result. -/
def reflectBit (v : Word) (w : Nat) (r : Word) (i : Nat) : Word :=
  if v.getLsbD i then r ||| (1#64 <<< (w - 1 - i)) else r

/-- `reflect(v, w)`: the low `w` bits of `v` in reverse order, for `w` up to 64 (R120). -/
def reflect (v : Word) (w : Nat) : Word := (List.range w).foldl (reflectBit v w) 0

/-- `reflect(b, 8)` of a byte, as the engines use it (R123). -/
def reflectByte (b : Byte) : Byte := (reflect (b.setWidth 64) 8).setWidth 8

/-- REFLECT (R122). The decoder has refused `RW > 64` already; the rule checks it, and so does the meaning. -/
def execReflect (rw : BitVec 7) (s : State) : Result :=
  if Config.maxWidth < rw.toNat then raise .illegalCommand s
  else respond (reflect (opa s) rw.toNat) s

end Sys2Proof.Machine
end

