-- ==== Sys2Proof/Machine/ReferenceEngine.lean ====
section
/-! DEFINITION. The ReferenceEngine (41_reference_engine.md): the division steps, the byte feeds, the two engines, each
by its own rule (R138, law 2: neither is defined through the other), and the commands REF_MSB, REF_LSB and REF_CRC. -/

namespace Sys2Proof.Machine

/-- `MsbStep(w, p, r)` (R131). The shift may drop bit 64, since the mask removes it anyway. -/
def msbStep (w : Nat) (p r : Word) : Word :=
  if r.getLsbD (w - 1) then ((r <<< 1) ^^^ p) &&& mask w else (r <<< 1) &&& mask w

/-- `MsbFeed(w, p, r, b)` (R132): for `w < 8` the register is widened to 8 bits for the feed (90_conflicts.md C1). -/
def msbFeed (w : Nat) (p r : Word) (b : Byte) : Word :=
  if 8 ≤ w then
    (msbStep w p)^[8] (r ^^^ (b.setWidth 64 <<< (w - 8)))
  else
    (msbStep 8 (p <<< (8 - w)))^[8] ((r <<< (8 - w)) ^^^ b.setWidth 64) >>> (8 - w)

/-- The byte as the MSB convention takes it: reflected when `refin = 1` (R133). -/
def msbByte (refin : Bool) (b : Byte) : Byte := if refin then reflectByte b else b

/-- `RefMsb(P, M)` (R133). -/
def refMsb (P : Params) (M : List Byte) : Word :=
  let r := M.foldl (fun r b => msbFeed P.w P.poly r (msbByte P.refin b)) P.init
  (if P.refout then reflect r P.w else r) ^^^ P.xorout

/-- `LsbStep(rp, r)`, with the reflected polynomial (R134). -/
def lsbStep (rp r : Word) : Word := if r.getLsbD 0 then (r >>> 1) ^^^ rp else r >>> 1

/-- `LsbFeed(w, rp, r, b)` (R135): one mask, after the eight steps. -/
def lsbFeed (w : Nat) (rp r : Word) (b : Byte) : Word := (lsbStep rp)^[8] (r ^^^ b.setWidth 64) &&& mask w

/-- The byte as the LSB convention takes it: reflected when `refin = 0` (R136). -/
def lsbByte (refin : Bool) (b : Byte) : Byte := if refin then b else reflectByte b

/-- `RefLsb(P, M)` (R136). -/
def refLsb (P : Params) (M : List Byte) : Word :=
  let rp := reflect P.poly P.w
  let r := M.foldl (fun r b => lsbFeed P.w rp r (lsbByte P.refin b)) (reflect P.init P.w)
  (if P.refout then r else reflect r P.w) ^^^ P.xorout

/-- `RefCrc(P, M)`, the dispatch on `refin` (R137). -/
def refCrc (P : Params) (M : List Byte) : Word := if P.refin then refLsb P M else refMsb P M

/-- REF_MSB (R139). -/
def execRefMsb (s : State) : Result :=
  if s.paramsValid then respond (refMsb (params s) (msg s)) s else raise .notConfigured s

/-- REF_LSB (R140). -/
def execRefLsb (s : State) : Result :=
  if s.paramsValid then respond (refLsb (params s) (msg s)) s else raise .notConfigured s

/-- REF_CRC (R141). -/
def execRefCrc (s : State) : Result :=
  if s.paramsValid then respond (refCrc (params s) (msg s)) s else raise .notConfigured s

end Sys2Proof.Machine
end

