-- ==== Sys2Proof/Machine/TableBuilder.lean ====
section
/-! DEFINITION. The TableBuilder (42_table_builder.md): the two doubling constructions as the spec writes them (the
contract R150 is a property to prove of them, not a second definition), installing a table with its tag, and the commands
TBL_BUILD_MSB, TBL_BUILD_LSB, TBL_BUILD and TBL_READ. -/

namespace Sys2Proof.Machine

/-- Entry `k` after an inner pass: `T[i + j] <- c XOR T[j]` for the `j` of the list, every other entry as it was. -/
def passEntry (c : Word) (i : Nat) (js : List Nat) (T : Table) (k : Nat) : Word :=
  if i ≤ k ∧ k - i ∈ js then c ^^^ entryAt T (k - i) else entryAt T k

/-- One inner pass: `T[i + j] <- c XOR T[j]` for the `j` of the list (R151, R152). Every `T[j]` it reads "was written in
an earlier pass" (R151, R152), so all its writes are made at once; `fillPass_eq_loop` (Laws/Table.lean) proves that the
loop which makes them one by one, in order, ends in the same table. -/
def fillPass (c : Word) (i : Nat) (js : List Nat) (T : Table) : Table :=
  ⟨((List.range 256).map (passEntry c i js T)).toArray, by simp⟩

/-- The pass of the MSB construction at `i` (R151): one step of the running value, then `j` from 0 to `i - 1`. -/
def msbPass (w : Nat) (p : Word) (cT : Word × Table) (i : Nat) : Word × Table :=
  let c := msbStep w p cT.1
  (c, fillPass c i (List.range i) cT.2)

/-- `BuildMsb(w, p)` (R151; 90_conflicts.md C2, C3): from the register's top bit, for `i` = 1, 2, ..., 128. -/
def buildMsb (w : Nat) (p : Word) : Table :=
  ([1, 2, 4, 8, 16, 32, 64, 128].foldl (msbPass w p) (1#64 <<< (w - 1), Vector.replicate 256 0)).2

/-- The indices `j` = 0, 2i, 4i, ... below 256 of the LSB construction's pass at `i` (R152). -/
def lsbIndices (i : Nat) : List Nat := (List.range (128 / i)).map (fun m => m * (2 * i))

/-- The pass of the LSB construction at `i` (R152): one step of the running value, then `j` in strides of `2 * i`. -/
def lsbPass (rp : Word) (cT : Word × Table) (i : Nat) : Word × Table :=
  let c := lsbStep rp cT.1
  (c, fillPass c i (lsbIndices i) cT.2)

/-- `BuildLsb(w, p)` (R152): from the register's lowest bit, for `i` = 128, 64, ..., 1. -/
def buildLsb (w : Nat) (p : Word) : Table :=
  ([128, 64, 32, 16, 8, 4, 2, 1].foldl (lsbPass (reflect p w)) (1#64, Vector.replicate 256 0)).2

/-- The table of a shape (R154, first two lines). -/
def buildTable (shape : Shape) (w : Nat) (p : Word) : Table :=
  match shape with
  | .msb => buildMsb w p
  | .lsb => buildLsb w p

/-- `TableInstall(shape, w, p)`: all 256 entries and the tag, in one step (R154). -/
def tableInstall (shape : Shape) (w p : Word) (s : State) : State :=
  { s with
    table := buildTable shape w.toNat p
    tblShape := shape
    tblWidth := w
    tblPoly := p
    tableValid := true }

/-- TBL_BUILD_MSB (R155). -/
def execTblBuildMsb (s : State) : Result :=
  if s.paramsValid then respond 0 (tableInstall .msb s.parWidth s.parPoly s) else raise .notConfigured s

/-- TBL_BUILD_LSB (R156). -/
def execTblBuildLsb (s : State) : Result :=
  if s.paramsValid then respond 0 (tableInstall .lsb s.parWidth s.parPoly s) else raise .notConfigured s

/-- TBL_BUILD (R157). -/
def execTblBuild (s : State) : Result :=
  if s.paramsValid then respond 0 (tableInstall (shapeOfRefin s.parRefin) s.parWidth s.parPoly s)
  else raise .notConfigured s

/-- TBL_READ (R158): it does not compare the tag with the active parameters. -/
def execTblRead (idx : Byte) (s : State) : Result :=
  if s.tableValid then respond (tableEntry s.table idx) s else raise .noTable s

end Sys2Proof.Machine
end

