-- ==== Sys2Proof/Machine/TableEngine.lean ====
section
/-! DEFINITION. The TableEngine (43_table_engine.md): the check that the table fits the active parameters, the two
engines by their own rules (R173: never by calling the reference engine), and the commands TBL_MSB and TBL_LSB. -/

namespace Sys2Proof.Machine

/-- `TableMatches(shape)` (R170). -/
def tableMatches (shape : Shape) (s : State) : Bool :=
  s.tableValid && decide (s.tblShape = shape) && decide (s.tblWidth = s.parWidth) && decide (s.tblPoly = s.parPoly)

/-- The table index of the MSB engine (R171): the register's top 8 bits, XORed with the byte. For `w < 8` the register
shifts up instead (90_conflicts.md C7). -/
def msbIndex (w : Nat) (r : Word) (b : Byte) : Byte :=
  ((if 8 ≤ w then r >>> (w - 8) else r <<< (8 - w)) ^^^ b.setWidth 64).setWidth 8

/-- One byte of the MSB table engine (R171). The shift may drop bits above 63, since the mask drops them anyway. -/
def tblMsbFeed (T : Table) (w : Nat) (r : Word) (b : Byte) : Word :=
  ((r <<< 8) ^^^ tableEntry T (msbIndex w r b)) &&& mask w

/-- `TblMsb(T, P, M)` (R171). -/
def tblMsb (T : Table) (P : Params) (M : List Byte) : Word :=
  let r := M.foldl (fun r b => tblMsbFeed T P.w r (msbByte P.refin b)) P.init
  (if P.refout then reflect r P.w else r) ^^^ P.xorout

/-- The table index of the LSB engine (R172): the register's low 8 bits, XORed with the byte. -/
def lsbIndex (r : Word) (b : Byte) : Byte := (r ^^^ b.setWidth 64).setWidth 8

/-- One byte of the LSB table engine (R172). -/
def tblLsbFeed (T : Table) (w : Nat) (r : Word) (b : Byte) : Word :=
  ((r >>> 8) ^^^ tableEntry T (lsbIndex r b)) &&& mask w

/-- `TblLsb(T, P, M)` (R172). -/
def tblLsb (T : Table) (P : Params) (M : List Byte) : Word :=
  let r := M.foldl (fun r b => tblLsbFeed T P.w r (lsbByte P.refin b)) (reflect P.init P.w)
  (if P.refout then r else reflect r P.w) ^^^ P.xorout

/-- TBL_MSB (R174). -/
def execTblMsb (s : State) : Result :=
  if s.paramsValid then
    if tableMatches .msb s then respond (tblMsb s.table (params s) (msg s)) s else raise .noTable s
  else raise .notConfigured s

/-- TBL_LSB (R175). -/
def execTblLsb (s : State) : Result :=
  if s.paramsValid then
    if tableMatches .lsb s then respond (tblLsb s.table (params s) (msg s)) s else raise .noTable s
  else raise .notConfigured s

end Sys2Proof.Machine
end

