-- ==== Sys2Proof/Machine/Pipeline.lean ====
section
/-! DEFINITION. The control commands and the compute pipeline (44_pipeline_and_control.md): NOP, RDCSR, WRCSR, the
construction of the active parameter set, CONFIGURE, BIND and CRC. -/

namespace Sys2Proof.Machine

/-- NOP (R190). -/
def execNop (s : State) : Result := respond 0 s

/-- RDCSR (R191). The value read is the one before this command completes (R49). -/
def execRdcsr (n : BitVec 12) (s : State) : Result :=
  match csrNamed n with
  | some r => respond (readCsr r s) s
  | none => raise .illegalCommand s

/-- WRCSR (R192): an unassigned number and a read-only register both raise ILLEGAL_COMMAND. -/
def execWrcsr (n : BitVec 12) (s : State) : Result :=
  match (csrNamed n).bind (fun r => writeCsr r (opa s) s) with
  | some s' => respond 0 s'
  | none => raise .illegalCommand s

/-- The staging registers, masked to the width, in the active parameter registers (R193, the seven writes). -/
def withConstructed (s : State) : State :=
  { s with
    parWidth := s.cfgWidth
    parPoly := s.cfgPoly &&& mask s.cfgWidth.toNat
    parInit := s.cfgInit &&& mask s.cfgWidth.toNat
    parXorout := s.cfgXorout &&& mask s.cfgWidth.toNat
    parRefin := s.cfgRefin
    parRefout := s.cfgRefout
    paramsValid := true }

/-- `ConstructParams()` (R193): none where it raises INVALID_PARAMETERS and writes nothing. Only the width is checked,
as a full 64-bit value. -/
def constructParams (s : State) : Option State :=
  if s.cfgWidth.toNat < Config.minWidth ∨ Config.maxWidth < s.cfgWidth.toNat then none
  else some (withConstructed s)

/-- CONFIGURE (R194): the table and its tag stay. -/
def execConfigure (s : State) : Result :=
  match constructParams s with
  | some s' => respond 0 s'
  | none => raise .invalidParameters s

/-- BIND (R195): construct the parameter set, then build the table its `refin` selects. -/
def execBind (s : State) : Result :=
  match constructParams s with
  | some s' => respond 0 (tableInstall (shapeOfRefin s'.parRefin) s'.parWidth s'.parPoly s')
  | none => raise .invalidParameters s

/-- CRC (R196): it never builds a table. -/
def execCrc (s : State) : Result :=
  if s.paramsValid then
    if tableMatches (shapeOfRefin s.parRefin) s then
      if s.parRefin then respond (tblLsb s.table (params s) (msg s)) s
      else respond (tblMsb s.table (params s) (msg s)) s
    else raise .noTable s
  else raise .notConfigured s

end Sys2Proof.Machine
end

