-- ==== Sys2Proof/Machine/Dispatch.lean ====
section
/-! DEFINITION. One arm per command (30_encoding.md R99). -/

namespace Sys2Proof.Machine

def exec (i : Instr) (s : State) : Host.Outcome State Fault Refusal :=
  match i with
  | .nop => Sys2Proof.Machine.execNop s
  | .rdcsr csr => Sys2Proof.Machine.execRdcsr csr s
  | .wrcsr csr => Sys2Proof.Machine.execWrcsr csr s
  | .configure => Sys2Proof.Machine.execConfigure s
  | .bind => Sys2Proof.Machine.execBind s
  | .reflect rw => Sys2Proof.Machine.execReflect rw s
  | .refMsb => Sys2Proof.Machine.execRefMsb s
  | .refLsb => Sys2Proof.Machine.execRefLsb s
  | .refCrc => Sys2Proof.Machine.execRefCrc s
  | .tblBuildMsb => Sys2Proof.Machine.execTblBuildMsb s
  | .tblBuildLsb => Sys2Proof.Machine.execTblBuildLsb s
  | .tblBuild => Sys2Proof.Machine.execTblBuild s
  | .tblRead idx => Sys2Proof.Machine.execTblRead idx s
  | .tblMsb => Sys2Proof.Machine.execTblMsb s
  | .tblLsb => Sys2Proof.Machine.execTblLsb s
  | .crc => Sys2Proof.Machine.execCrc s

end Sys2Proof.Machine
end

