-- ==== Sys2Proof/Machine/Step.lean ====
section
/-! DEFINITION. One step of the machine: the host's next move (10_state.md R33, R51). There is no program counter and no
instruction memory (R34); the host sequences the commands, so the next instruction stands at the head of `host`. -/

namespace Sys2Proof.Machine

/-- The engine's step (R33): the command in flight is decoded and executed, whole and at once. A transaction that breaks
the host's message duty has no step (R51, R259). A reset has one whatever it comes during: with a transaction that breaks
the duty this is a DESIGN CHOICE (log entry 15). -/
def step (s : State) : Host.Outcome State Fault Refusal :=
  match s.host with
  | [] => stayIdle s
  | .reset :: _ => takeReset s
  | .resetDuring _ :: _ => takeReset s
  | .command t :: _ =>
    if deliverable t then
      match decode t.cmd with
      | .ok i => exec i s
      | .error why => raiseIllegalWord why s
    else .refused .notATransaction

/-- `s` with one command put in front of the host's moves: the command word `w` (bits above `nbits` zero), `OPA = 0` and
an empty message, which every format admits (log entry 7). -/
def State.withFetchWord (s : State) (nbits w : Nat) : State :=
  { s with host := .command { cmd := BitVec.ofNat 32 (w % 2 ^ nbits), opa := 0, msg := [] } :: s.host }

end Sys2Proof.Machine
end

