-- ==== Sys2Proof/Safety.lean ====
section
/-! DEFINITION. The terms the statements use: what a completed command leaves, the legal parameter sets, the invariant of
the machine, a bound table, and the words of one opcode. Nothing here is part of the machine. -/

namespace Sys2Proof.Machine

/-- The state after a command that responds `(0, v)` and whose other effect has left `s` (60_exceptions.md R229): LAST_CODE
is 0, ERR is as it was, the response is sent and the transaction is gone. -/
def answered (v : Word) (s : State) : State :=
  { s with lastCode := 0, response := some { code := 0, result := v }, host := s.host.tail }

/-- The state after a command that raises code `c` (R228, R229): LAST_CODE and ERR are written, the response is `(c, 0)`,
the transaction is gone, and nothing else has changed. -/
def erred (c : Byte) (s : State) : State :=
  { s with lastCode := c, err := true, response := some { code := c, result := 0 }, host := s.host.tail }

/-- How the command words of opcode `opc` run (30_encoding.md R99, R100): `f` gives the command each value of `CMD[23:0]`
names, and where it gives none the word is illegal and raises ILLEGAL_COMMAND. -/
def CommandWords (opc : Nat) (f : Nat → Option Instr) : Prop :=
  ∀ (s : State) (t : Transaction), inFlight s = some t → deliverable t = true → t.cmd.toNat / 2 ^ 24 = opc →
    step s = match f (t.cmd.toNat % 2 ^ 24) with
      | some i => exec i s
      | none => .next (erred 2 s)

/-- A value of width `w`: its bits from `w` upward are zero (R8). -/
abbrev FitsWidth (w : Nat) (v : Word) : Prop := v.toNat < 2 ^ w

/-- The width range (R7). -/
abbrev LegalWidth (w : Nat) : Prop := 1 ≤ w ∧ w ≤ 64

/-- A parameter set as R16 has it. -/
abbrev LegalParams (P : Params) : Prop :=
  LegalWidth P.w ∧ FitsWidth P.w P.poly ∧ FitsWidth P.w P.init ∧ FitsWidth P.w P.xorout

/-- R43: a constructed parameter set is legal. -/
abbrev ParamsInv (s : State) : Prop := s.paramsValid = true → LegalParams (params s)

/-- R36, R191 and R158: before a construction the active registers hold their reset values and no table is built. -/
abbrev UnconfiguredInv (s : State) : Prop :=
  s.paramsValid = false → s.parWidth = 0 ∧ s.parPoly = 0 ∧ s.parInit = 0 ∧ s.parXorout = 0 ∧
    s.parRefin = false ∧ s.parRefout = false ∧ s.tableValid = false

/-- R45: a valid table is the one its tag names, and its tag is legal. -/
abbrev TableInv (s : State) : Prop :=
  s.tableValid = true → LegalWidth s.tblWidth.toNat ∧ FitsWidth s.tblWidth.toNat s.tblPoly ∧
    s.table = buildTable s.tblShape s.tblWidth.toNat s.tblPoly

/-- R46 and R250: until a table is built, its tag holds its reset values. -/
abbrev NoTableInv (s : State) : Prop :=
  s.tableValid = false → s.tblWidth = 0 ∧ s.tblPoly = 0 ∧ s.tblShape = .msb

/-- R220 and R48: LAST_CODE is a code the core produces, and a non-zero one has set ERR. -/
abbrev StatusInv (s : State) : Prop := s.lastCode.toNat ≤ 4 ∧ (s.lastCode ≠ 0 → s.err = true)

/-- R32 and R229: the last response carries LAST_CODE, with result 0 on an error. -/
abbrev ResponseInv (s : State) : Prop :=
  match s.response with
  | none => s.lastCode = 0
  | some r => r.code = s.lastCode ∧ (r.code ≠ 0 → r.result = 0)

/-- The invariant of the machine. -/
abbrev Inv (s : State) : Prop :=
  ParamsInv s ∧ UnconfiguredInv s ∧ TableInv s ∧ NoTableInv s ∧ StatusInv s ∧ ResponseInv s

/-- The installed table was built for the active width and polynomial in this shape (43_table_engine.md R170). -/
abbrev Matching (shape : Shape) (s : State) : Prop :=
  s.tableValid = true ∧ s.tblShape = shape ∧ s.tblWidth = s.parWidth ∧ s.tblPoly = s.parPoly

/-- Parameters are constructed and the table is bound: it matches the shape `refin` selects (R170). -/
abbrev Bound (s : State) : Prop :=
  s.paramsValid = true ∧ Matching (if s.parRefin then .lsb else .msb) s

/-- One step of a run that leaves a binding alone (44_pipeline_and_control.md R197): a command, not a reset; no successful
CONFIGURE or BIND; and no successful build of the table `refin` does not select (that last clause is log entry 8). -/
def KeepsBinding (s t : State) : Prop :=
  ∃ c, inFlight s = some c ∧ step s = .next t ∧
    (t.lastCode = 0 →
      decode c.cmd ≠ .ok .configure ∧ decode c.cmd ≠ .ok .bind ∧
      (decode c.cmd = .ok .tblBuildMsb → s.parRefin = false) ∧
      (decode c.cmd = .ok .tblBuildLsb → s.parRefin = true))

/-- `s` with the staging registers of `u` (10_state.md R37 to R39). -/
def restage (s u : State) : State :=
  { s with
    cfgWidth := u.cfgWidth
    cfgPoly := u.cfgPoly
    cfgInit := u.cfgInit
    cfgXorout := u.cfgXorout
    cfgRefin := u.cfgRefin
    cfgRefout := u.cfgRefout }

/-- The active parameter registers and their valid bit (R40, R42), to be compared as one. -/
def activeSet (s : State) : Bool × Word × Word × Word × Word × Bool × Bool :=
  (s.paramsValid, s.parWidth, s.parPoly, s.parInit, s.parXorout, s.parRefin, s.parRefout)

/-- The staging registers (R36), to be compared as one. -/
def stagingSet (s : State) : Word × Word × Word × Word × Bool × Bool :=
  (s.cfgWidth, s.cfgPoly, s.cfgInit, s.cfgXorout, s.cfgRefin, s.cfgRefout)

/-- The table with its tag (R44, R45), to be compared as one. -/
def tableSet (s : State) : Table × Bool × Shape × Word × Word :=
  (s.table, s.tableValid, s.tblShape, s.tblWidth, s.tblPoly)

end Sys2Proof.Machine
end

