-- ==== Sys2Proof/Certificates/Slice0/Obligations.lean ====
section
/-! DEFINITION. The statements about the pycrc CRC core, each from a numbered rule of spec/ (OBLIGATIONS.json has the citation).
A result is stated as an equation that gives the whole next state, so that it is also the completion statement and the
frame of its command: `answered v s'` and `erred c s` (Safety.lean) say which fields the completion writes, and every field
not named there or in the record update is unchanged. -/

open Sys2Proof Sys2Proof.Machine

/-! ## Encoding -/

/-- R106, with the worked words of R105: each word decodes to the command it is written for, and the four words of R106
are illegal. -/
def Obligations.WorkedWordsDecode : Prop :=
  decode 0x00000000#32 = .ok .nop ∧ decode 0x01000020#32 = .ok (.rdcsr 0x020) ∧
  decode 0x02000002#32 = .ok (.wrcsr 0x002) ∧ decode 0x02000005#32 = .ok (.wrcsr 0x005) ∧
  decode 0x03000000#32 = .ok .configure ∧ decode 0x04000000#32 = .ok .bind ∧
  decode 0x10000020#32 = .ok (.reflect 32) ∧ decode 0x22000000#32 = .ok .refCrc ∧
  decode 0x31000000#32 = .ok .tblBuildLsb ∧ decode 0x330000FF#32 = .ok (.tblRead 255) ∧
  decode 0x42000000#32 = .ok .crc ∧
  decode 0x10000041#32 = .error .reflectWidth ∧ decode 0x01001000#32 = .error .reservedField ∧
  decode 0x05000000#32 = .error .unassignedOpcode ∧ decode 0x42000001#32 = .error .reservedField

/-- No bit of an encoding is dropped: a well-formed command comes back from its word (R99, R101, R105). -/
def Obligations.EncodedCommandDecodesToItself : Prop :=
  ∀ i : Instr, WellFormed i = true → decode (encode i) = .ok i

/-- R101: a word that is not illegal names exactly one well-formed command, the one it is the encoding of. -/
def Obligations.DecodedCommandEncodesToItsWord : Prop :=
  ∀ (c : CmdWord) (i : Instr), decode c = .ok i → WellFormed i = true ∧ encode i = c

/-- R100: which words are legal, by their numbers; every other word raises ILLEGAL_COMMAND and changes nothing but STATUS;
and a CSR number, assigned or not, is no decode error: RDCSR and WRCSR raise the same code for it by their own rules. -/
def Obligations.IllegalWordsRaiseIllegalCommand : Prop :=
  (∀ c : CmdWord, (∃ i, decode c = .ok i) ↔
    c.toNat ∈ [0x00000000, 0x03000000, 0x04000000, 0x20000000, 0x21000000, 0x22000000, 0x30000000, 0x31000000,
      0x32000000, 0x40000000, 0x41000000, 0x42000000] ∨
    (0x01000000 ≤ c.toNat ∧ c.toNat ≤ 0x01000FFF) ∨ (0x02000000 ≤ c.toNat ∧ c.toNat ≤ 0x02000FFF) ∨
    (0x10000000 ≤ c.toNat ∧ c.toNat ≤ 0x10000040) ∨ (0x33000000 ≤ c.toNat ∧ c.toNat ≤ 0x330000FF)) ∧
  (∀ (s : State) (t : Transaction) (why : Illegal), inFlight s = some t → deliverable t = true →
    decode t.cmd = .error why → step s = .next (erred 2 s)) ∧
  ∀ (n : BitVec 12) (s : State),
    n.toNat ∉ [0x000, 0x001, 0x002, 0x003, 0x004, 0x005, 0x011, 0x012, 0x013, 0x014, 0x015, 0x020, 0x021, 0x022, 0x023] →
    exec (.rdcsr n) s = .next (erred 2 s) ∧ exec (.wrcsr n) s = .next (erred 2 s)

/-! ## Steps, the host's moves and reset -/

/-- R33, R101: a delivered command whose word decodes to `i` is executed as `i`, and a word put in front of the host's
moves is the one the next step runs. -/
def Obligations.StepRunsTheDecodedCommand : Prop :=
  (∀ (s : State) (t : Transaction) (i : Instr), inFlight s = some t → deliverable t = true → decode t.cmd = .ok i →
    step s = exec i s) ∧
  ∀ (s : State) (i : Instr), WellFormed i = true →
    step (s.withFetchWord 32 (encode i).toNat) = exec i (s.withFetchWord 32 (encode i).toNat)

/-- R261, with R32: every delivered command completes in one step, with exactly one response, and is then gone. -/
def Obligations.EveryDeliveredCommandCompletes : Prop :=
  ∀ (s : State) (t : Transaction), inFlight s = some t → deliverable t = true →
    ∃ u r, step s = .next u ∧ u.response = some r ∧ u.lastCode = r.code ∧ u.host = s.host.tail

/-- R51, R259: a step is refused exactly for a transaction that breaks the host's duty, whose message is not `OPA` bytes
for the six message commands or is not empty otherwise. That the second case takes in the unassigned opcodes is the
model's reading (log entry 4). -/
def Obligations.OnlyABrokenMessageDutyHasNoStep : Prop :=
  ∀ s : State, (∃ r, step s = .refused r) ↔
    ∃ t, inFlight s = some t ∧
      ¬ (if t.cmd.toNat / 2 ^ 24 ∈ [0x20, 0x21, 0x22, 0x40, 0x41, 0x42] then t.msg.length = t.opa.toNat else t.msg = [])

/-- R80, R258: each step takes the host's next move and no other, in the order the host issues them. R252: with no move
of the host the engine is idle; that waiting is a step which changes nothing is the model's reading (log entry 6). -/
def Obligations.HostMovesAreTakenInOrder : Prop :=
  (∀ s t : State, step s = .next t → t.host = s.host.tail) ∧ ∀ s : State, s.host = [] → step s = .next s

/-- R250: reset, between commands or during one, sets every field but TABLE to its reset value; a command it abandons has
no effect and gets no response. The machine's own reset state has the same values. That no response is held, that the
host's later moves stay, and that a reset during a transaction which breaks the message-length duty is a reset too are the
model's choices (log entries 2, 5 and 15). -/
def Obligations.ResetSetsEveryField : Prop :=
  let zero := fun t : State =>
    t.cfgWidth = 0 ∧ t.cfgPoly = 0 ∧ t.cfgInit = 0 ∧ t.cfgXorout = 0 ∧ t.cfgRefin = false ∧ t.cfgRefout = false ∧
    t.parWidth = 0 ∧ t.parPoly = 0 ∧ t.parInit = 0 ∧ t.parXorout = 0 ∧ t.parRefin = false ∧ t.parRefout = false ∧
    t.paramsValid = false ∧ t.tableValid = false ∧ t.tblShape = .msb ∧ t.tblWidth = 0 ∧ t.tblPoly = 0 ∧
    t.err = false ∧ t.lastCode = 0 ∧ t.response = none
  zero State.reset ∧
  ∀ (s : State) (m : HostMove) (rest : List HostMove), s.host = m :: rest → (m = .reset ∨ ∃ t, m = .resetDuring t) →
    ∃ t, step s = .next t ∧ zero t ∧ t.host = rest

/-- R36, last column: what RDCSR reads of each register right after reset; every other number is an error. -/
def Obligations.ResetReadings : Prop :=
  ∀ n : BitVec 12, exec (.rdcsr n) State.reset = .next (
    if n = 0x000 then answered 0x5059435243000007 State.reset
    else if n.toNat ∈ [0x001, 0x002, 0x003, 0x004, 0x005, 0x011, 0x012, 0x013, 0x014, 0x015, 0x020, 0x021, 0x022, 0x023]
      then answered 0 State.reset
    else erred 2 State.reset)

/-! ## Control commands -/

/-- R190: NOP does nothing; LAST_CODE becomes 0 and ERR stays. -/
def Obligations.NopDoesNothing : Prop :=
  CommandWords 0x00 (fun f => if f = 0 then some .nop else none) ∧
  ∀ s : State, exec .nop s = .next (answered 0 s)

/-- R191: RDCSR answers the register of its number, as it was before the command completes; an unassigned number raises
ILLEGAL_COMMAND. -/
def Obligations.RdcsrReadsTheNamedRegister : Prop :=
  CommandWords 0x01 (fun f => if f < 2 ^ 12 then some (.rdcsr (BitVec.ofNat 12 f)) else none) ∧
  ∀ (n : BitVec 12) (s : State), exec (.rdcsr n) s = .next (
    if n = 0x000 then answered 0x5059435243000007 s
    else if n = 0x001 then answered s.cfgWidth s
    else if n = 0x002 then answered s.cfgPoly s
    else if n = 0x003 then answered s.cfgInit s
    else if n = 0x004 then answered s.cfgXorout s
    else if n = 0x005 then answered (BitVec.ofNat 64 (s.cfgRefin.toNat + 2 * s.cfgRefout.toNat)) s
    else if n = 0x011 then answered s.parWidth s
    else if n = 0x012 then answered s.parPoly s
    else if n = 0x013 then answered s.parInit s
    else if n = 0x014 then answered s.parXorout s
    else if n = 0x015 then answered (BitVec.ofNat 64 (s.parRefin.toNat + 2 * s.parRefout.toNat)) s
    else if n = 0x020 then answered (BitVec.ofNat 64 (s.paramsValid.toNat + 2 * s.tableValid.toNat
      + 4 * (if s.tblShape = .lsb then 1 else 0) + 8 * s.err.toNat + 256 * s.lastCode.toNat)) s
    else if n = 0x021 then answered s.tblWidth s
    else if n = 0x022 then answered s.tblPoly s
    else if n = 0x023 then answered (BitVec.ofNat 64 ((s.tblWidth.toNat + 7) / 8)) s
    else erred 2 s)

/-- R47: the fields of STATUS as RDCSR reads it, bit by bit, with its reserved bits 0; bit 3 is the one a write can clear,
and a write of STATUS changes nothing else; after reset it reads 0. -/
def Obligations.StatusFields : Prop :=
  (∀ s : State, (∃ v, exec (.rdcsr 0x020) s = .next (answered v s) ∧
    v.getLsbD 0 = s.paramsValid ∧ v.getLsbD 1 = s.tableValid ∧ v.getLsbD 2 = decide (s.tblShape = .lsb) ∧
    v.getLsbD 3 = s.err ∧ v.extractLsb' 4 4 = 0#4 ∧ v.extractLsb' 8 8 = s.lastCode ∧ v.extractLsb' 16 48 = 0#48) ∧
    exec (.wrcsr 0x020) s = .next (answered 0 { s with err := s.err && !(opa s).getLsbD 3 })) ∧
  exec (.rdcsr 0x020) State.reset = .next (answered 0 State.reset)

/-- R192: WRCSR writes the staging register of its number whole and unchecked, the two flags, or clears ERR; an unassigned
number and a read-only register raise ILLEGAL_COMMAND. -/
def Obligations.WrcsrWritesTheNamedRegister : Prop :=
  CommandWords 0x02 (fun f => if f < 2 ^ 12 then some (.wrcsr (BitVec.ofNat 12 f)) else none) ∧
  ∀ (n : BitVec 12) (s : State), exec (.wrcsr n) s = .next (
    if n = 0x001 then answered 0 { s with cfgWidth := opa s }
    else if n = 0x002 then answered 0 { s with cfgPoly := opa s }
    else if n = 0x003 then answered 0 { s with cfgInit := opa s }
    else if n = 0x004 then answered 0 { s with cfgXorout := opa s }
    else if n = 0x005 then answered 0 { s with
      cfgRefin := decide ((opa s).toNat % 2 = 1), cfgRefout := decide ((opa s).toNat / 2 % 2 = 1) }
    else if n = 0x020 then answered 0 (if (opa s).toNat / 8 % 2 = 1 then { s with err := false } else s)
    else erred 2 s)

/-- R193, R194: CONFIGURE refuses a width outside 1..64, read as a full 64-bit value, and writes nothing; otherwise it
masks, never rejects, and leaves the table and its tag alone. -/
def Obligations.ConfigureConstructsTheParameterSet : Prop :=
  CommandWords 0x03 (fun f => if f = 0 then some .configure else none) ∧
  ∀ s : State,
    (s.cfgWidth.toNat < 1 ∨ 64 < s.cfgWidth.toNat → exec .configure s = .next (erred 1 s)) ∧
    (LegalWidth s.cfgWidth.toNat → exec .configure s = .next (answered 0 { s with
      parWidth := s.cfgWidth
      parPoly := BitVec.ofNat 64 (s.cfgPoly.toNat % 2 ^ s.cfgWidth.toNat)
      parInit := BitVec.ofNat 64 (s.cfgInit.toNat % 2 ^ s.cfgWidth.toNat)
      parXorout := BitVec.ofNat 64 (s.cfgXorout.toNat % 2 ^ s.cfgWidth.toNat)
      parRefin := s.cfgRefin
      parRefout := s.cfgRefout
      paramsValid := true }))

/-- R195: BIND does what CONFIGURE does and installs the table `refin` selects, in one step; when the width is refused
neither the parameters nor the table change. -/
def Obligations.BindConstructsAndBuilds : Prop :=
  CommandWords 0x04 (fun f => if f = 0 then some .bind else none) ∧
  ∀ s : State,
    (s.cfgWidth.toNat < 1 ∨ 64 < s.cfgWidth.toNat → exec .bind s = .next (erred 1 s)) ∧
    (LegalWidth s.cfgWidth.toNat →
      let poly : Word := BitVec.ofNat 64 (s.cfgPoly.toNat % 2 ^ s.cfgWidth.toNat)
      exec .bind s = .next (answered 0 { s with
        parWidth := s.cfgWidth
        parPoly := poly
        parInit := BitVec.ofNat 64 (s.cfgInit.toNat % 2 ^ s.cfgWidth.toNat)
        parXorout := BitVec.ofNat 64 (s.cfgXorout.toNat % 2 ^ s.cfgWidth.toNat)
        parRefin := s.cfgRefin
        parRefout := s.cfgRefout
        paramsValid := true
        table := if s.cfgRefin then buildLsb s.cfgWidth.toNat poly else buildMsb s.cfgWidth.toNat poly
        tableValid := true
        tblShape := if s.cfgRefin then .lsb else .msb
        tblWidth := s.cfgWidth
        tblPoly := poly }))

/-! ## The reflector -/

/-- R122 with R120: REFLECT answers the word whose bit `j` below `RW` is bit `RW - 1 - j` of the operand, and whose other
bits are 0; an `RW` above 64 raises ILLEGAL_COMMAND. It needs no configuration. -/
def Obligations.ReflectReversesTheLowBits : Prop :=
  CommandWords 0x10 (fun f => if f ≤ 64 then some (.reflect (BitVec.ofNat 7 f)) else none) ∧
  ∀ (rw : BitVec 7) (s : State),
    (64 < rw.toNat → exec (.reflect rw) s = .next (erred 2 s)) ∧
    (rw.toNat ≤ 64 → ∃ v, exec (.reflect rw) s = .next (answered v s) ∧
      ∀ j, v.getLsbD j = (decide (j < rw.toNat) && (opa s).getLsbD (rw.toNat - 1 - j)))

/-- R121: the laws of `reflect` for every width from 0 to 64. -/
def Obligations.ReflectLaws : Prop :=
  ∀ (w : Nat) (a b : Word), w ≤ 64 →
    FitsWidth w (reflect a w) ∧
    reflect a w = reflect (a &&& mask w) w ∧
    (FitsWidth w a → reflect (reflect a w) w = a) ∧
    reflect (a ^^^ b) w = reflect a w ^^^ reflect b w ∧
    reflect 0 w = 0 ∧ reflect (mask w) w = mask w

/-! ## The reference engine -/

/-- R139: REF_MSB answers the MSB engine's CRC of the message under the active parameters, and writes nothing but STATUS. -/
def Obligations.RefMsbAnswersTheMsbCrc : Prop :=
  CommandWords 0x20 (fun f => if f = 0 then some .refMsb else none) ∧
  ∀ s : State,
    (s.paramsValid = false → exec .refMsb s = .next (erred 3 s)) ∧
    (s.paramsValid = true → exec .refMsb s = .next (answered (refMsb
      { w := s.parWidth.toNat, poly := s.parPoly, init := s.parInit, refin := s.parRefin, refout := s.parRefout,
        xorout := s.parXorout } (msg s)) s))

/-- R140: REF_LSB, likewise, with the LSB engine. -/
def Obligations.RefLsbAnswersTheLsbCrc : Prop :=
  CommandWords 0x21 (fun f => if f = 0 then some .refLsb else none) ∧
  ∀ s : State,
    (s.paramsValid = false → exec .refLsb s = .next (erred 3 s)) ∧
    (s.paramsValid = true → exec .refLsb s = .next (answered (refLsb
      { w := s.parWidth.toNat, poly := s.parPoly, init := s.parInit, refin := s.parRefin, refout := s.parRefout,
        xorout := s.parXorout } (msg s)) s))

/-- R141 with R137: REF_CRC, with the engine `refin` selects. -/
def Obligations.RefCrcAnswersTheSelectedCrc : Prop :=
  CommandWords 0x22 (fun f => if f = 0 then some .refCrc else none) ∧
  ∀ s : State,
    (s.paramsValid = false → exec .refCrc s = .next (erred 3 s)) ∧
    (s.paramsValid = true → s.parRefin = true →
      exec .refCrc s = .next (answered (refLsb (params s) (msg s)) s)) ∧
    (s.paramsValid = true → s.parRefin = false →
      exec .refCrc s = .next (answered (refMsb (params s) (msg s)) s))

/-- R131, R134 with R13: the division steps in 64-bit words give what the rules' unbounded integers give. -/
def Obligations.DivisionStepsOnUnboundedIntegers : Prop :=
  ∀ (w : Nat) (p r : Word), LegalWidth w → FitsWidth w p → FitsWidth w r →
    (msbStep w p r).toNat = (if r.toNat / 2 ^ (w - 1) % 2 = 1 then (r.toNat * 2) ^^^ p.toNat else r.toNat * 2) % 2 ^ w ∧
    (lsbStep p r).toNat = (if r.toNat % 2 = 1 then (r.toNat / 2) ^^^ p.toNat else r.toNat / 2)

/-- R132, R135: both feeds stay in the width; the MSB feed of a width below 8 drops no set bit by its last shift; and the
LSB feed's one mask changes no value. -/
def Obligations.FeedsStayInTheWidth : Prop :=
  ∀ (w : Nat) (p r : Word) (b : Byte), LegalWidth w → FitsWidth w p → FitsWidth w r →
    FitsWidth w (msbFeed w p r b) ∧ FitsWidth w (lsbFeed w p r b) ∧
    lsbFeed w p r b = (lsbStep p)^[8] (r ^^^ b.setWidth 64) ∧
    (w < 8 → ((msbStep 8 (p <<< (8 - w)))^[8] ((r <<< (8 - w)) ^^^ b.setWidth 64)).toNat % 2 ^ (8 - w) = 0)

/-- R138, law 1: no result of a reference engine has a bit set at or above the width. -/
def Obligations.ReferenceResultsFitTheWidth : Prop :=
  ∀ (P : Params) (M : List Byte), LegalParams P → FitsWidth P.w (refMsb P M) ∧ FitsWidth P.w (refLsb P M)

/-- R138, law 2, the step form: the LSB division step is the reflection of the MSB one. -/
def Obligations.LsbStepIsReflectedMsbStep : Prop :=
  ∀ (w : Nat) (p r : Word), LegalWidth w → FitsWidth w p → FitsWidth w r →
    lsbStep (reflect p w) (reflect r w) = reflect (msbStep w p r) w

/-- R138, law 2: the two bit orders agree on every parameter set and every message. -/
def Obligations.MsbAndLsbEnginesAgree : Prop :=
  ∀ (P : Params) (M : List Byte), LegalParams P → refMsb P M = refLsb P M

/-- R138, law 3: the CRC of the empty message. -/
def Obligations.ReferenceOfTheEmptyMessage : Prop :=
  ∀ P : Params, LegalParams P →
    refMsb P [] = (if P.refout then reflect P.init P.w else P.init) ^^^ P.xorout ∧
    refLsb P [] = (if P.refout then reflect P.init P.w else P.init) ^^^ P.xorout

/-- R138, law 4: the MSB feed is the bit-serial feed, for every width, those below 8 too. -/
def Obligations.MsbFeedIsBitSerial : Prop :=
  ∀ (w : Nat) (p r : Word) (b : Byte), LegalWidth w → FitsWidth w p → FitsWidth w r →
    msbFeed w p r b = (List.range 8).foldl (fun (r : Word) (j : Nat) =>
      let r' : Word := (r <<< 1) &&& mask w
      if xor (r.getLsbD (w - 1)) (b.getLsbD (7 - j)) then r' ^^^ p else r') r

/-- R138, law 5: both feeds are linear over XOR. -/
def Obligations.FeedsAreLinear : Prop :=
  ∀ (w : Nat) (p r₁ r₂ : Word) (b₁ b₂ : Byte), LegalWidth w → FitsWidth w p → FitsWidth w r₁ → FitsWidth w r₂ →
    msbFeed w p (r₁ ^^^ r₂) (b₁ ^^^ b₂) = msbFeed w p r₁ b₁ ^^^ msbFeed w p r₂ b₂ ∧
    lsbFeed w p (r₁ ^^^ r₂) (b₁ ^^^ b₂) = lsbFeed w p r₁ b₁ ^^^ lsbFeed w p r₂ b₂

/-! ## The table builder -/

/-- R150: every entry of either doubling construction is the reference engine's contribution of that byte alone. -/
def Obligations.TableEntriesMeetTheContract : Prop :=
  ∀ (w : Nat) (p : Word), LegalWidth w → FitsWidth w p → ∀ k : Byte,
    tableEntry (buildMsb w p) k = msbFeed w p 0 k ∧ tableEntry (buildLsb w p) k = lsbFeed w (reflect p w) 0 k

/-- R153, law 4: a table is linear over XOR of the index, in both shapes. -/
def Obligations.TablesAreLinear : Prop :=
  ∀ (shape : Shape) (w : Nat) (p : Word), LegalWidth w → FitsWidth w p → ∀ a b : Byte,
    tableEntry (buildTable shape w p) (a ^^^ b)
      = tableEntry (buildTable shape w p) a ^^^ tableEntry (buildTable shape w p) b

/-- R153, laws 1, 2, 5 and 7: entry 0, the entry of the single step, the width of every entry, and the zero polynomial. -/
def Obligations.TableEntryLaws : Prop :=
  ∀ (w : Nat) (p : Word), LegalWidth w → FitsWidth w p →
    tableEntry (buildMsb w p) 0 = 0 ∧ tableEntry (buildLsb w p) 0 = 0 ∧
    tableEntry (buildMsb w p) 1 = p ∧ tableEntry (buildLsb w p) 128 = reflect p w ∧
    ∀ k : Byte, FitsWidth w (tableEntry (buildMsb w p) k) ∧ FitsWidth w (tableEntry (buildLsb w p) k) ∧
      tableEntry (buildMsb w 0) k = 0 ∧ tableEntry (buildLsb w 0) k = 0

/-- R155: TBL_BUILD_MSB replaces the table and its tag, whatever `refin` is, and nothing else. -/
def Obligations.TblBuildMsbInstallsTheMsbTable : Prop :=
  CommandWords 0x30 (fun f => if f = 0 then some .tblBuildMsb else none) ∧
  ∀ s : State,
    (s.paramsValid = false → exec .tblBuildMsb s = .next (erred 3 s)) ∧
    (s.paramsValid = true → exec .tblBuildMsb s = .next (answered 0 { s with
      table := buildMsb s.parWidth.toNat s.parPoly
      tableValid := true
      tblShape := .msb
      tblWidth := s.parWidth
      tblPoly := s.parPoly }))

/-- R156: TBL_BUILD_LSB, likewise; TBL_POLY records the unreflected polynomial. -/
def Obligations.TblBuildLsbInstallsTheLsbTable : Prop :=
  CommandWords 0x31 (fun f => if f = 0 then some .tblBuildLsb else none) ∧
  ∀ s : State,
    (s.paramsValid = false → exec .tblBuildLsb s = .next (erred 3 s)) ∧
    (s.paramsValid = true → exec .tblBuildLsb s = .next (answered 0 { s with
      table := buildLsb s.parWidth.toNat s.parPoly
      tableValid := true
      tblShape := .lsb
      tblWidth := s.parWidth
      tblPoly := s.parPoly }))

/-- R157: TBL_BUILD installs the table `refin` selects, and it is then bound. -/
def Obligations.TblBuildInstallsTheSelectedTable : Prop :=
  CommandWords 0x32 (fun f => if f = 0 then some .tblBuild else none) ∧
  ∀ s : State,
    (s.paramsValid = false → exec .tblBuild s = .next (erred 3 s)) ∧
    (s.paramsValid = true → ∃ t, exec .tblBuild s = .next t ∧ Bound t ∧
      t = answered 0 { s with
        table := if s.parRefin then buildLsb s.parWidth.toNat s.parPoly else buildMsb s.parWidth.toNat s.parPoly
        tableValid := true
        tblShape := if s.parRefin then .lsb else .msb
        tblWidth := s.parWidth
        tblPoly := s.parPoly })

/-- R158: TBL_READ answers the entry of whatever table was last built, and raises NO_TABLE only when none was. -/
def Obligations.TblReadAnswersTheEntry : Prop :=
  CommandWords 0x33 (fun f => if f < 256 then some (.tblRead (BitVec.ofNat 8 f)) else none) ∧
  ∀ (k : Byte) (s : State),
    (s.tableValid = false → exec (.tblRead k) s = .next (erred 4 s)) ∧
    (s.tableValid = true → ∃ v, s.table[k.toNat]? = some v ∧ exec (.tblRead k) s = .next (answered v s))

/-! ## The table engine and the pipeline -/

/-- R174: TBL_MSB, with the installed table where it is an MSB table for the active width and polynomial. -/
def Obligations.TblMsbAnswersTheTableCrc : Prop :=
  CommandWords 0x40 (fun f => if f = 0 then some .tblMsb else none) ∧
  ∀ s : State,
    (s.paramsValid = false → exec .tblMsb s = .next (erred 3 s)) ∧
    (s.paramsValid = true → ¬ Matching .msb s → exec .tblMsb s = .next (erred 4 s)) ∧
    (s.paramsValid = true → Matching .msb s →
      exec .tblMsb s = .next (answered (tblMsb s.table (params s) (msg s)) s))

/-- R175: TBL_LSB, with the installed table where it is an LSB table for the active width and polynomial. -/
def Obligations.TblLsbAnswersTheTableCrc : Prop :=
  CommandWords 0x41 (fun f => if f = 0 then some .tblLsb else none) ∧
  ∀ s : State,
    (s.paramsValid = false → exec .tblLsb s = .next (erred 3 s)) ∧
    (s.paramsValid = true → ¬ Matching .lsb s → exec .tblLsb s = .next (erred 4 s)) ∧
    (s.paramsValid = true → Matching .lsb s →
      exec .tblLsb s = .next (answered (tblLsb s.table (params s) (msg s)) s))

/-- R196: CRC, with the engine `refin` selects where the table is bound; it builds nothing. -/
def Obligations.CrcAnswersWithTheBoundTable : Prop :=
  CommandWords 0x42 (fun f => if f = 0 then some .crc else none) ∧
  ∀ s : State,
    (s.paramsValid = false → exec .crc s = .next (erred 3 s)) ∧
    (s.paramsValid = true → ¬ Bound s → exec .crc s = .next (erred 4 s)) ∧
    (Bound s → exec .crc s = .next (answered
      (if s.parRefin then tblLsb s.table (params s) (msg s) else tblMsb s.table (params s) (msg s)) s))

/-- R171, R172 with R13: one byte of either table engine, in 64-bit words, gives what the rules' unbounded integers give. -/
def Obligations.TableByteStepsOnUnboundedIntegers : Prop :=
  ∀ (T : Table) (w : Nat) (r : Word) (b : Byte), LegalWidth w → FitsWidth w r →
    (msbIndex w r b).toNat =
      ((if 8 ≤ w then r.toNat / 2 ^ (w - 8) else r.toNat * 2 ^ (8 - w)) ^^^ b.toNat) % 256 ∧
    (tblMsbFeed T w r b).toNat = ((r.toNat * 2 ^ 8) ^^^ (tableEntry T (msbIndex w r b)).toNat) % 2 ^ w ∧
    (lsbIndex r b).toNat = (r.toNat ^^^ b.toNat) % 256 ∧
    (tblLsbFeed T w r b).toNat = ((r.toNat / 2 ^ 8) ^^^ (tableEntry T (lsbIndex r b)).toNat) % 2 ^ w

/-- R173, laws 1 to 3: each table engine over its own table is bit-identical to its reference engine, so all four paths
agree, on every parameter set and every message. -/
def Obligations.TableEnginesEqualReferenceEngines : Prop :=
  ∀ (P : Params) (M : List Byte), LegalParams P →
    tblMsb (buildMsb P.w P.poly) P M = refMsb P M ∧
    tblLsb (buildLsb P.w P.poly) P M = refLsb P M ∧
    tblMsb (buildMsb P.w P.poly) P M = tblLsb (buildLsb P.w P.poly) P M

/-- R173, laws 4 and 5: whatever the table, a result fits the width, and the empty message does not read the table. -/
def Obligations.TableEngineRangeAndEmptyMessage : Prop :=
  ∀ (T : Table) (P : Params) (M : List Byte), LegalParams P →
    FitsWidth P.w (tblMsb T P M) ∧ FitsWidth P.w (tblLsb T P M) ∧
    tblMsb T P [] = (if P.refout then reflect P.init P.w else P.init) ^^^ P.xorout ∧
    tblLsb T P [] = (if P.refout then reflect P.init P.w else P.init) ^^^ P.xorout

/-- R197, the pipeline law, over runs of any length: after a BIND that succeeds, CRC answers the reference CRC of the
message for as long as no reset, no successful CONFIGURE or BIND, and no successful build of the other table shape has
come between (the last exception is not in R197's words: log entry 8). -/
def Obligations.PipelineAnswersTheReferenceCrc : Prop :=
  ∀ s s₁ s₂ : State, exec .bind s = .next s₁ → s₁.lastCode = 0 → Relation.ReflTransGen KeepsBinding s₁ s₂ →
    exec .crc s₂ = .next (answered (refCrc (params s₁) (msg s₂)) s₂)

/-- R155 with R170 and R196: a table of the other shape, built after BIND, makes CRC raise NO_TABLE. So R197 needs the
exception above (log entry 8). -/
def Obligations.ForeignBuildUnbindsTheTable : Prop :=
  ∀ s s₁ s₂ : State, exec .bind s = .next s₁ → s₁.lastCode = 0 →
    exec (if s₁.parRefin then .tblBuildMsb else .tblBuildLsb) s₁ = .next s₂ → exec .crc s₂ = .next (erred 4 s₂)

/-- R255: what a successful CONFIGURE does to an installed table that matches: it is not rebuilt, and row by row. -/
def Obligations.StaleTableIsRefused : Prop :=
  ∀ (shape : Shape) (s t : State) (h : List HostMove), Matching shape s → exec .configure s = .next t → t.lastCode = 0 →
    let u := { t with host := h }
    t.table = s.table ∧
    (t.parWidth = s.parWidth → t.parPoly = s.parPoly → Matching shape u ∧
      (Bound s → t.parRefin = s.parRefin → Bound u) ∧
      (Bound s → t.parRefin ≠ s.parRefin → exec .crc u = .next (erred 4 u))) ∧
    (t.parWidth ≠ s.parWidth ∨ t.parPoly ≠ s.parPoly →
      exec .tblMsb u = .next (erred 4 u) ∧ exec .tblLsb u = .next (erred 4 u) ∧ exec .crc u = .next (erred 4 u))

/-! ## The invariant and the rules of the whole machine -/

/-- R43, R45, R46, R48, R220 and the corner case of R158, as one invariant that every step keeps, from every state that
meets it. -/
def Obligations.EveryStepKeepsTheInvariant : Prop :=
  ∀ s t : State, Inv s → step s = .next t → Inv t

/-- The invariant holds right after reset. -/
def Obligations.ResetMeetsTheInvariant : Prop := Inv State.reset

/-- R40: only a CONFIGURE or BIND that succeeds writes the active parameter registers, reset apart. -/
def Obligations.OnlyConstructionWritesTheActiveSet : Prop :=
  ∀ (s t : State) (c : Transaction), inFlight s = some c → step s = .next t → activeSet t ≠ activeSet s →
    (decode c.cmd = .ok .configure ∨ decode c.cmd = .ok .bind) ∧ t.lastCode = 0

/-- R42, with R223: PARAMS_VALID is set by a successful CONFIGURE or BIND, cleared by nothing but reset, and while it is
0 every command that computes with the parameter set raises NOT_CONFIGURED. -/
def Obligations.ParamsValidLifecycle : Prop :=
  (∀ s t : State, step s = .next t → s.paramsValid = true → t.paramsValid = false →
    ∃ m rest, s.host = m :: rest ∧ (m = .reset ∨ ∃ c, m = .resetDuring c)) ∧
  (∀ (s t : State) (m : HostMove) (rest : List HostMove), s.host = m :: rest → (m = .reset ∨ ∃ c, m = .resetDuring c) →
    step s = .next t → t.paramsValid = false) ∧
  (∀ s t : State, (exec .configure s = .next t ∨ exec .bind s = .next t) → t.lastCode = 0 → t.paramsValid = true) ∧
  ∀ s : State, s.paramsValid = false →
    ∀ i ∈ [Instr.refMsb, .refLsb, .refCrc, .tblBuildMsb, .tblBuildLsb, .tblBuild, .tblMsb, .tblLsb, .crc],
      exec i s = .next (erred 3 s)

/-- R44: only a build, or a BIND, that succeeds writes the table or its tag, and then it writes them whole: afterwards the
table is the one its new tag names. -/
def Obligations.OnlyBuildsWriteTheTable : Prop :=
  ∀ (s t : State) (c : Transaction), inFlight s = some c → step s = .next t → tableSet t ≠ tableSet s →
    (decode c.cmd = .ok .bind ∨ decode c.cmd = .ok .tblBuildMsb ∨ decode c.cmd = .ok .tblBuildLsb ∨
      decode c.cmd = .ok .tblBuild) ∧ t.lastCode = 0 ∧
    t.tableValid = true ∧ t.tblWidth = t.parWidth ∧ t.tblPoly = t.parPoly ∧
    t.table = buildTable t.tblShape t.tblWidth.toNat t.tblPoly

/-- R48: ERR is set by every non-zero code, and cleared by nothing but reset or a WRCSR to STATUS with bit 3 of the operand
set. -/
def Obligations.ErrIsSticky : Prop :=
  (∀ (s t : State) (c : Transaction), inFlight s = some c → step s = .next t → t.lastCode ≠ 0 → t.err = true) ∧
  (∀ s t : State, step s = .next t → s.err = true → t.err = false →
    (∃ m rest, s.host = m :: rest ∧ (m = .reset ∨ ∃ c, m = .resetDuring c)) ∨
    (∃ c, inFlight s = some c ∧ decode c.cmd = .ok (.wrcsr 0x020) ∧ c.opa.getLsbD 3 = true)) ∧
  (∀ s t : State, exec (.wrcsr 0x020) s = .next t → (opa s).getLsbD 3 = true → t.err = false) ∧
  (∀ (s t : State) (m : HostMove) (rest : List HostMove), s.host = m :: rest → (m = .reset ∨ ∃ c, m = .resetDuring c) →
    step s = .next t → t.err = false)

/-- R36, R37, R38: only a WRCSR to one of the five staging numbers writes a staging register, reset apart. -/
def Obligations.OnlyWrcsrWritesTheStagingSet : Prop :=
  ∀ (s t : State) (c : Transaction), inFlight s = some c → step s = .next t → stagingSet t ≠ stagingSet s →
    ∃ n : BitVec 12, decode c.cmd = .ok (.wrcsr n) ∧ 1 ≤ n.toNat ∧ n.toNat ≤ 5

/-- R228: an error is precise: a command that raises one, decoded or not, has written LAST_CODE and ERR only, and its
result is 0. -/
def Obligations.ErrorsArePrecise : Prop :=
  ∀ (s t : State) (c : Transaction), inFlight s = some c → step s = .next t → t.lastCode ≠ 0 → t = erred t.lastCode s

/-- R229: the completion update, at the end of every command in every state, decoded or not: LAST_CODE becomes the code of
the response, and a non-zero code sets ERR, with result 0 and no other state written. -/
def Obligations.CompletionUpdatesStatus : Prop :=
  ∀ (s : State) (c : Transaction), inFlight s = some c → deliverable c = true → ∃ t code result, step s = .next t ∧
    t.response = some { code := code, result := result } ∧ t.lastCode = code ∧
    (code ≠ 0 → t.err = true ∧ t = erred code s) ∧
    (code = 0 → t.err = s.err ∨ (decode c.cmd = .ok (.wrcsr 0x020) ∧ c.opa.getLsbD 3 = true ∧ t.err = false))

/-- R226 with R220: which command can raise which code; 5 and above are never produced. -/
def Obligations.CodesEachCommandCanRaise : Prop :=
  ∀ (i : Instr) (s t : State), exec i s = .next t → t.lastCode ∈ (match i with
    | .nop => [(0 : Byte)]
    | .rdcsr _ | .wrcsr _ => [0, 2]
    | .configure | .bind => [0, 1]
    | .reflect rw => if rw.toNat ≤ 64 then [0] else [2]
    | .refMsb | .refLsb | .refCrc | .tblBuildMsb | .tblBuildLsb | .tblBuild => [0, 3]
    | .tblRead _ => [0, 4]
    | .tblMsb | .tblLsb | .crc => [0, 3, 4])

/-- The frame of the commands that compute or read (R79, R139 to R141, R158, R174, R175, R190, R191, R196 and R122): they leave
every field but LAST_CODE, ERR and the port as it was, and ERR is only ever set. -/
def Obligations.ReadsAndEnginesWriteOnlyStatus : Prop :=
  ∀ (i : Instr) (s t : State),
    (match i with
      | .nop | .rdcsr _ | .reflect _ | .refMsb | .refLsb | .refCrc | .tblRead _ | .tblMsb | .tblLsb | .crc => True
      | .wrcsr _ | .configure | .bind | .tblBuildMsb | .tblBuildLsb | .tblBuild => False) →
    exec i s = .next t →
    t = { s with lastCode := t.lastCode, err := s.err || decide (t.lastCode ≠ 0), response := t.response,
                 host := s.host.tail }

/-- R79: RDCSR of any register but STATUS, and TBL_READ, repeated, answer the same. STATUS is left out because its own
LAST_CODE field changes between the two reads (R49; log entry 9). -/
def Obligations.RepeatedReadsAgree : Prop :=
  ∀ (i : Instr) (s t u : State) (h : List HostMove),
    (match i with | .rdcsr n => n ≠ 0x020 | .tblRead _ => True | _ => False) →
    exec i s = .next t → exec i { t with host := h } = .next u → u.response = t.response

/-- R254: the staging registers reach no computation. For every command but the four that read or write them, a state with
other staging registers gives the same next state, with those other staging registers. -/
def Obligations.StagingReachesNoComputation : Prop :=
  ∀ (i : Instr) (s t u : State),
    (match i with
      | .rdcsr _ | .wrcsr _ | .configure | .bind => False
      | .nop | .reflect _ | .refMsb | .refLsb | .refCrc | .tblBuildMsb | .tblBuildLsb | .tblBuild | .tblRead _
      | .tblMsb | .tblLsb | .crc => True) →
    exec i s = .next t → exec i (restage s u) = .next (restage t u)

/-- R251: while TABLE_VALID is 0 the table cannot be observed. A step from two states that differ in TABLE alone gives the
same response and the same next state but for TABLE, and once a step has made TABLE_VALID 1 no difference is left. -/
def Obligations.InvalidTableIsUnobservable : Prop :=
  ∀ (s : State) (T : Table), s.tableValid = false →
    (∀ t, step s = .next t → ∃ T', step { s with table := T } = .next { t with table := T' } ∧
      (t.tableValid = true → T' = t.table)) ∧
    (∀ r, step s = .refused r → step { s with table := T } = .refused r)

/-- R46: TBL_ENTRY_BYTES reads `ceil(TBL_WIDTH / 8)`: 0 until a table is built since reset, and 1 to 8 after. -/
def Obligations.EntryBytesReading : Prop :=
  ∀ s : State, Inv s → ∃ v, exec (.rdcsr 0x023) s = .next (answered v s) ∧
    8 * v.toNat < s.tblWidth.toNat + 8 ∧ s.tblWidth.toNat ≤ 8 * v.toNat ∧
    (s.tableValid = false → v = 0) ∧ (s.tableValid = true → 1 ≤ v.toNat ∧ v.toNat ≤ 8)
end

