-- ==== Sys2Proof/Laws/State.lean ====
section
/-! SUPPORT. One lemma per field per named update of the state, each true by rfl, so that no later proof unfolds a record
update. -/

namespace Sys2Proof.Machine

/-! `complete` -/

@[simp] theorem complete_cfgWidth (c : Code) (v : Word) (s : State) : (complete c v s).cfgWidth = s.cfgWidth := rfl
@[simp] theorem complete_cfgPoly (c : Code) (v : Word) (s : State) : (complete c v s).cfgPoly = s.cfgPoly := rfl
@[simp] theorem complete_cfgInit (c : Code) (v : Word) (s : State) : (complete c v s).cfgInit = s.cfgInit := rfl
@[simp] theorem complete_cfgXorout (c : Code) (v : Word) (s : State) : (complete c v s).cfgXorout = s.cfgXorout := rfl
@[simp] theorem complete_cfgRefin (c : Code) (v : Word) (s : State) : (complete c v s).cfgRefin = s.cfgRefin := rfl
@[simp] theorem complete_cfgRefout (c : Code) (v : Word) (s : State) : (complete c v s).cfgRefout = s.cfgRefout := rfl
@[simp] theorem complete_parWidth (c : Code) (v : Word) (s : State) : (complete c v s).parWidth = s.parWidth := rfl
@[simp] theorem complete_parPoly (c : Code) (v : Word) (s : State) : (complete c v s).parPoly = s.parPoly := rfl
@[simp] theorem complete_parInit (c : Code) (v : Word) (s : State) : (complete c v s).parInit = s.parInit := rfl
@[simp] theorem complete_parXorout (c : Code) (v : Word) (s : State) : (complete c v s).parXorout = s.parXorout := rfl
@[simp] theorem complete_parRefin (c : Code) (v : Word) (s : State) : (complete c v s).parRefin = s.parRefin := rfl
@[simp] theorem complete_parRefout (c : Code) (v : Word) (s : State) : (complete c v s).parRefout = s.parRefout := rfl
@[simp] theorem complete_paramsValid (c : Code) (v : Word) (s : State) : (complete c v s).paramsValid = s.paramsValid := rfl
@[simp] theorem complete_table (c : Code) (v : Word) (s : State) : (complete c v s).table = s.table := rfl
@[simp] theorem complete_tableValid (c : Code) (v : Word) (s : State) : (complete c v s).tableValid = s.tableValid := rfl
@[simp] theorem complete_tblShape (c : Code) (v : Word) (s : State) : (complete c v s).tblShape = s.tblShape := rfl
@[simp] theorem complete_tblWidth (c : Code) (v : Word) (s : State) : (complete c v s).tblWidth = s.tblWidth := rfl
@[simp] theorem complete_tblPoly (c : Code) (v : Word) (s : State) : (complete c v s).tblPoly = s.tblPoly := rfl
@[simp] theorem complete_err (c : Code) (v : Word) (s : State) : (complete c v s).err = errAfter c s.err := rfl
@[simp] theorem complete_lastCode (c : Code) (v : Word) (s : State) : (complete c v s).lastCode = codeNumber c := rfl
@[simp] theorem complete_host (c : Code) (v : Word) (s : State) : (complete c v s).host = s.host.tail := rfl
@[simp] theorem complete_response (c : Code) (v : Word) (s : State) : (complete c v s).response = some { code := codeNumber c, result := v } := rfl

/-! `tableInstall`. The parentheses around rfl keep these out of definitional simp: with a literal shape the kernel would
otherwise be asked to evaluate a whole table. -/

@[simp] theorem tableInstall_cfgWidth (h : Shape) (w p : Word) (s : State) : (tableInstall h w p s).cfgWidth = s.cfgWidth := (rfl)
@[simp] theorem tableInstall_cfgPoly (h : Shape) (w p : Word) (s : State) : (tableInstall h w p s).cfgPoly = s.cfgPoly := (rfl)
@[simp] theorem tableInstall_cfgInit (h : Shape) (w p : Word) (s : State) : (tableInstall h w p s).cfgInit = s.cfgInit := (rfl)
@[simp] theorem tableInstall_cfgXorout (h : Shape) (w p : Word) (s : State) : (tableInstall h w p s).cfgXorout = s.cfgXorout := (rfl)
@[simp] theorem tableInstall_cfgRefin (h : Shape) (w p : Word) (s : State) : (tableInstall h w p s).cfgRefin = s.cfgRefin := (rfl)
@[simp] theorem tableInstall_cfgRefout (h : Shape) (w p : Word) (s : State) : (tableInstall h w p s).cfgRefout = s.cfgRefout := (rfl)
@[simp] theorem tableInstall_parWidth (h : Shape) (w p : Word) (s : State) : (tableInstall h w p s).parWidth = s.parWidth := (rfl)
@[simp] theorem tableInstall_parPoly (h : Shape) (w p : Word) (s : State) : (tableInstall h w p s).parPoly = s.parPoly := (rfl)
@[simp] theorem tableInstall_parInit (h : Shape) (w p : Word) (s : State) : (tableInstall h w p s).parInit = s.parInit := (rfl)
@[simp] theorem tableInstall_parXorout (h : Shape) (w p : Word) (s : State) : (tableInstall h w p s).parXorout = s.parXorout := (rfl)
@[simp] theorem tableInstall_parRefin (h : Shape) (w p : Word) (s : State) : (tableInstall h w p s).parRefin = s.parRefin := (rfl)
@[simp] theorem tableInstall_parRefout (h : Shape) (w p : Word) (s : State) : (tableInstall h w p s).parRefout = s.parRefout := (rfl)
@[simp] theorem tableInstall_paramsValid (h : Shape) (w p : Word) (s : State) : (tableInstall h w p s).paramsValid = s.paramsValid := (rfl)
@[simp] theorem tableInstall_table (h : Shape) (w p : Word) (s : State) : (tableInstall h w p s).table = buildTable h w.toNat p := (rfl)
@[simp] theorem tableInstall_tableValid (h : Shape) (w p : Word) (s : State) : (tableInstall h w p s).tableValid = true := (rfl)
@[simp] theorem tableInstall_tblShape (h : Shape) (w p : Word) (s : State) : (tableInstall h w p s).tblShape = h := (rfl)
@[simp] theorem tableInstall_tblWidth (h : Shape) (w p : Word) (s : State) : (tableInstall h w p s).tblWidth = w := (rfl)
@[simp] theorem tableInstall_tblPoly (h : Shape) (w p : Word) (s : State) : (tableInstall h w p s).tblPoly = p := (rfl)
@[simp] theorem tableInstall_err (h : Shape) (w p : Word) (s : State) : (tableInstall h w p s).err = s.err := (rfl)
@[simp] theorem tableInstall_lastCode (h : Shape) (w p : Word) (s : State) : (tableInstall h w p s).lastCode = s.lastCode := (rfl)
@[simp] theorem tableInstall_host (h : Shape) (w p : Word) (s : State) : (tableInstall h w p s).host = s.host := (rfl)
@[simp] theorem tableInstall_response (h : Shape) (w p : Word) (s : State) : (tableInstall h w p s).response = s.response := (rfl)

/-! `withConstructed` -/

@[simp] theorem withConstructed_cfgWidth (s : State) : (withConstructed s).cfgWidth = s.cfgWidth := rfl
@[simp] theorem withConstructed_cfgPoly (s : State) : (withConstructed s).cfgPoly = s.cfgPoly := rfl
@[simp] theorem withConstructed_cfgInit (s : State) : (withConstructed s).cfgInit = s.cfgInit := rfl
@[simp] theorem withConstructed_cfgXorout (s : State) : (withConstructed s).cfgXorout = s.cfgXorout := rfl
@[simp] theorem withConstructed_cfgRefin (s : State) : (withConstructed s).cfgRefin = s.cfgRefin := rfl
@[simp] theorem withConstructed_cfgRefout (s : State) : (withConstructed s).cfgRefout = s.cfgRefout := rfl
@[simp] theorem withConstructed_parWidth (s : State) : (withConstructed s).parWidth = s.cfgWidth := rfl
@[simp] theorem withConstructed_parPoly (s : State) : (withConstructed s).parPoly = s.cfgPoly &&& mask s.cfgWidth.toNat := rfl
@[simp] theorem withConstructed_parInit (s : State) : (withConstructed s).parInit = s.cfgInit &&& mask s.cfgWidth.toNat := rfl
@[simp] theorem withConstructed_parXorout (s : State) : (withConstructed s).parXorout = s.cfgXorout &&& mask s.cfgWidth.toNat := rfl
@[simp] theorem withConstructed_parRefin (s : State) : (withConstructed s).parRefin = s.cfgRefin := rfl
@[simp] theorem withConstructed_parRefout (s : State) : (withConstructed s).parRefout = s.cfgRefout := rfl
@[simp] theorem withConstructed_paramsValid (s : State) : (withConstructed s).paramsValid = true := rfl
@[simp] theorem withConstructed_table (s : State) : (withConstructed s).table = s.table := rfl
@[simp] theorem withConstructed_tableValid (s : State) : (withConstructed s).tableValid = s.tableValid := rfl
@[simp] theorem withConstructed_tblShape (s : State) : (withConstructed s).tblShape = s.tblShape := rfl
@[simp] theorem withConstructed_tblWidth (s : State) : (withConstructed s).tblWidth = s.tblWidth := rfl
@[simp] theorem withConstructed_tblPoly (s : State) : (withConstructed s).tblPoly = s.tblPoly := rfl
@[simp] theorem withConstructed_err (s : State) : (withConstructed s).err = s.err := rfl
@[simp] theorem withConstructed_lastCode (s : State) : (withConstructed s).lastCode = s.lastCode := rfl
@[simp] theorem withConstructed_host (s : State) : (withConstructed s).host = s.host := rfl
@[simp] theorem withConstructed_response (s : State) : (withConstructed s).response = s.response := rfl

/-! `State.withFetchWord` -/

theorem withFetchWord_eq (s : State) (nbits w : Nat) :
    s.withFetchWord nbits w =
      { s with host := .command { cmd := BitVec.ofNat 32 (w % 2 ^ nbits), opa := 0, msg := [] } :: s.host } := rfl

/-! The words the statements use are the machine's own: `answered` and `erred` are `complete`. -/

theorem complete_ok_eq_answered (v : Word) (s : State) : complete .ok v s = answered v s := by
  simp [complete, answered, errAfter, codeNumber]

theorem complete_eq_erred (c : Code) (hc : c ≠ .ok) (s : State) : complete c 0 s = erred (codeNumber c) s := by
  cases c <;> simp_all [complete, erred, errAfter, codeNumber]

end Sys2Proof.Machine
end

