-- ==== Sys2Proof/Laws/Ops.lean ====
section
/-! SUPPORT. One lemma per shared operation that says everything it can do; proofs cite these instead of unfolding. -/

namespace Sys2Proof.Machine

/-! ## The transaction in flight -/

theorem inFlight_eq_some {s : State} {t : Transaction} :
    inFlight s = some t ↔ ∃ rest, s.host = .command t :: rest := by
  unfold inFlight
  split <;> simp_all

theorem opa_of_inFlight {s : State} {t : Transaction} (h : inFlight s = some t) : opa s = t.opa := by
  simp [opa, h]

theorem msg_of_inFlight {s : State} {t : Transaction} (h : inFlight s = some t) : msg s = t.msg := by
  simp [msg, h]

/-- The operand and the message come from the port alone. -/
theorem inFlight_congr {s u : State} (h : s.host = u.host) : inFlight s = inFlight u := by
  simp [inFlight, h]

theorem opa_congr {s u : State} (h : s.host = u.host) : opa s = opa u := by
  simp [opa, inFlight_congr h]

theorem msg_congr {s u : State} (h : s.host = u.host) : msg s = msg u := by
  simp [msg, inFlight_congr h]

/-! ## Ending a command -/

theorem respond_eq (v : Word) (s : State) : respond v s = .next (answered v s) :=
  congrArg Host.Outcome.next (complete_ok_eq_answered v s)

theorem raise_eq (c : Code) (hc : c ≠ .ok) (s : State) : raise c s = .next (erred (codeNumber c) s) :=
  congrArg Host.Outcome.next (complete_eq_erred c hc s)

theorem codeNumber_le_five (c : Code) : (codeNumber c).toNat ≤ 5 := by
  cases c <;> decide

theorem codeNumber_eq_zero {c : Code} : codeNumber c = 0 ↔ c = .ok := by
  cases c <;> decide

/-! ## Constructing parameters and writing a CSR -/

/-- Everything `constructParams` can do: refuse a width outside 1..64, or make the seven writes. -/
theorem constructParams_cases (s : State) :
    (¬ LegalWidth s.cfgWidth.toNat ∧ constructParams s = none) ∨
      (LegalWidth s.cfgWidth.toNat ∧ constructParams s = some (withConstructed s)) := by
  unfold constructParams LegalWidth
  by_cases h : s.cfgWidth.toNat < Config.minWidth ∨ Config.maxWidth < s.cfgWidth.toNat
  · exact .inl ⟨by simp only [Config.minWidth, Config.maxWidth] at h; omega, if_pos h⟩
  · exact .inr ⟨by simp only [Config.minWidth, Config.maxWidth] at h; omega, if_neg h⟩

/-- Everything `writeCsr` can write: staging registers, or ERR, and nothing else. -/
theorem writeCsr_cases {r : Csr} {v : Word} {s s' : State} (h : writeCsr r v s = some s') :
    (∃ u, s' = restage s u) ∨ (r = .status ∧ s' = { s with err := errAfterStatusWrite v s.err }) := by
  cases r <;> simp only [writeCsr, Option.some.injEq, reduceCtorEq] at h
  case status => exact .inr ⟨rfl, h.symm⟩
  all_goals exact .inl ⟨s', by subst h; rfl⟩

/-! ## Table entries -/

theorem entryAt_setEntry_self (T : Table) {k : Nat} (hk : k < 256) (v : Word) : entryAt (setEntry T k v) k = v := by
  simp [entryAt, setEntry, hk]

theorem entryAt_setEntry_other (T : Table) {k j : Nat} (h : j ≠ k) (v : Word) :
    entryAt (setEntry T k v) j = entryAt T j := by
  unfold entryAt setEntry
  split
  · split
    · rw [Vector.getElem_set_ne _ _ (by omega)]
    · rfl
  · rfl

theorem entryAt_setEntry (T : Table) {k : Nat} (hk : k < 256) (j : Nat) (v : Word) :
    entryAt (setEntry T k v) j = if j = k then v else entryAt T j := by
  split
  · next h => subst h; exact entryAt_setEntry_self T hk v
  · next h => exact entryAt_setEntry_other T h v

theorem tableEntry_eq_entryAt (T : Table) (k : Byte) : tableEntry T k = entryAt T k.toNat := by
  have h : k.toNat < 256 := k.isLt
  simp [tableEntry, entryAt, h]

/-! ## The host's moves that are no command -/

theorem takeReset_eq (s : State) : takeReset s = .next { State.reset with host := s.host.tail } := rfl

theorem stayIdle_eq (s : State) : stayIdle s = .next s := rfl

/-! ## The table tag -/

theorem tableMatches_iff (h : Shape) (s : State) : tableMatches h s = true ↔ Matching h s := by
  simp [tableMatches, Matching, and_assoc]

theorem shapeOfRefin_eq (b : Bool) : shapeOfRefin b = if b then .lsb else .msb := rfl

end Sys2Proof.Machine
end

