-- ==== Sys2Proof/Laws/Bits.lean ====
section
/-! SUPPORT. Bit lemmas of the masks and the reflector: what each bit of a result is, so that no later proof unfolds a loop. -/

namespace Sys2Proof.Machine

theorem mask_getLsbD {w : Nat} (hw : w ≤ 64) (i : Nat) : (mask w).getLsbD i = decide (i < w) := by
  have : (mask w).getLsbD i = (decide (i < 64) && (2 ^ w - 1).testBit i) := by
    simp [mask, BitVec.getLsbD_ofNat]
  rw [this, Nat.testBit_two_pow_sub_one]
  by_cases h : i < w
  · simp [h]; omega
  · simp [h]

theorem mask_toNat {w : Nat} (hw : w ≤ 64) : (mask w).toNat = 2 ^ w - 1 := by
  have : 2 ^ w ≤ 2 ^ 64 := Nat.pow_le_pow_right (by decide) hw
  simp only [mask, BitVec.toNat_ofNat]
  exact Nat.mod_eq_of_lt (by omega)

theorem and_mask_toNat (v : Word) {w : Nat} (hw : w ≤ 64) : (v &&& mask w).toNat = v.toNat % 2 ^ w := by
  rw [BitVec.toNat_and, mask_toNat hw, Nat.and_two_pow_sub_one_eq_mod]

theorem and_mask_lt (v : Word) {w : Nat} (hw : w ≤ 64) : FitsWidth w (v &&& mask w) := by
  rw [FitsWidth, and_mask_toNat v hw]
  exact Nat.mod_lt _ (Nat.two_pow_pos w)

/-- A value fits a width exactly when its bits from the width upward are zero. -/
theorem fitsWidth_iff_bits {w : Nat} (v : Word) : FitsWidth w v ↔ ∀ i, w ≤ i → v.getLsbD i = false := by
  constructor
  · intro h i hi
    exact Nat.testBit_lt_two_pow (Nat.lt_of_lt_of_le h (Nat.pow_le_pow_right (by decide) hi))
  · intro h
    exact Nat.lt_pow_two_of_testBit _ (fun i hi => h i hi)

/-- The loop of R120 after `n` turns. -/
theorem reflect_loop_getLsbD (v : Word) {w : Nat} (hw : w ≤ 64) (n : Nat) (hn : n ≤ w) (j : Nat) :
    ((List.range n).foldl (reflectBit v w) 0).getLsbD j
      = (decide (j < w ∧ w - 1 - j < n) && v.getLsbD (w - 1 - j)) := by
  induction n with
  | zero => simp
  | succ n ih =>
    rw [List.range_succ, List.foldl_append, List.foldl_cons, List.foldl_nil]
    have ih' := ih (by omega)
    generalize (List.range n).foldl (reflectBit v w) 0 = r at ih' ⊢
    unfold reflectBit
    by_cases hv : v.getLsbD n = true
    · rw [if_pos hv, BitVec.getLsbD_or, ih', BitVec.getLsbD_shiftLeft]
      by_cases hj : j = w - 1 - n
      · subst hj
        have h1 : w - 1 - (w - 1 - n) = n := by omega
        have h2 : w - 1 - n < 64 := by omega
        simp [h1, h2, hv]; omega
      · have h3 : (decide (j < 64) && !decide (j < w - 1 - n) && (1#64).getLsbD (j - (w - 1 - n))) = false := by
          by_cases h4 : j < w - 1 - n
          · simp [h4]
          · have : j - (w - 1 - n) ≠ 0 := by omega
            simp [BitVec.getLsbD_one, this]
        rw [h3, Bool.or_false]
        have : decide (j < w ∧ w - 1 - j < n) = decide (j < w ∧ w - 1 - j < n + 1) := by
          apply decide_eq_decide.mpr; omega
        rw [this]
    · rw [if_neg hv, ih']
      by_cases hj : w - 1 - j = n
      · have hv' : v.getLsbD (w - 1 - j) = false := by rw [hj]; simpa using hv
        simp [hv']
      · have : decide (j < w ∧ w - 1 - j < n) = decide (j < w ∧ w - 1 - j < n + 1) := by
          apply decide_eq_decide.mpr; omega
        rw [this]

/-- Bit `j` of a reflection (R120). -/
theorem reflect_getLsbD (v : Word) {w : Nat} (hw : w ≤ 64) (j : Nat) :
    (reflect v w).getLsbD j = (decide (j < w) && v.getLsbD (w - 1 - j)) := by
  rw [reflect, reflect_loop_getLsbD v hw w (Nat.le_refl w)]
  by_cases h : j < w
  · have : w - 1 - j < w := by omega
    simp [h, this]
  · simp [h]

end Sys2Proof.Machine
end

