-- ==== Sys2Proof/Laws/PerInstr.lean ====
section
/-! SUPPORT. Statements about every command as syntax, one lemma per constructor. Family OpcodeRow: the encoder writes
exactly the bits that the command's row of opcode_table.json fixes, and its opcode has the command's format. -/

namespace Sys2Proof.Laws.OpcodeRow

/-- The encoded word has the row's fixed bits, and the format of its opcode is the command's. -/
def Statement (i : Instr) : Prop :=
  encode i &&& rowMask i = rowMatch i ∧ formatOfOpcode (opcodeOf (encode i)) = some i.format

/-- A word of an opcode and a field, cut back into the two: no bit of either is lost. -/
theorem opcodeOf_word (o : BitVec 8) (f : BitVec 24) : opcodeOf ((o.setWidth 32 <<< 24) ||| f.setWidth 32) = o := by
  ext i hi
  have h1 : 24 + i < 32 := by omega
  have h2 : ¬ 24 + i < 24 := by omega
  simp [opcodeOf, h1, hi]

/-- The bits a mask keeps of a word whose field lies below the mask. -/
theorem field_and_mask (o : BitVec 8) (n : Nat) (f : BitVec n) (m : CmdWord) (hn : n ≤ 24)
    (hm : ∀ i, i < 32 → m.getLsbD i = decide (n ≤ i)) :
    ((o.setWidth 32 <<< 24) ||| (f.setWidth 24).setWidth 32) &&& m = o.setWidth 32 <<< 24 := by
  refine BitVec.eq_of_getLsbD_eq fun i hi => ?_
  rw [BitVec.getLsbD_and, BitVec.getLsbD_or, hm i hi]
  by_cases h : n ≤ i
  · simp [BitVec.getLsbD_setWidth, h]
  · have : i < 24 := by omega
    simp [h, this]

theorem nop : Statement .nop := ⟨by decide, by decide⟩

theorem rdcsr (csr : BitVec 12) : Statement (.rdcsr csr) :=
  ⟨(field_and_mask 0x01#8 12 csr 0xFFFFF000#32 (by decide) (by decide)).trans rfl,
    (congrArg formatOfOpcode (opcodeOf_word 0x01#8 (csr.setWidth 24))).trans rfl⟩

theorem wrcsr (csr : BitVec 12) : Statement (.wrcsr csr) :=
  ⟨(field_and_mask 0x02#8 12 csr 0xFFFFF000#32 (by decide) (by decide)).trans rfl,
    (congrArg formatOfOpcode (opcodeOf_word 0x02#8 (csr.setWidth 24))).trans rfl⟩

theorem configure : Statement .configure := ⟨by decide, by decide⟩

theorem bind : Statement .bind := ⟨by decide, by decide⟩

theorem reflect (rw : BitVec 7) : Statement (.reflect rw) :=
  ⟨(field_and_mask 0x10#8 7 rw 0xFFFFFF80#32 (by decide) (by decide)).trans rfl,
    (congrArg formatOfOpcode (opcodeOf_word 0x10#8 (rw.setWidth 24))).trans rfl⟩

theorem refMsb : Statement .refMsb := ⟨by decide, by decide⟩

theorem refLsb : Statement .refLsb := ⟨by decide, by decide⟩

theorem refCrc : Statement .refCrc := ⟨by decide, by decide⟩

theorem tblBuildMsb : Statement .tblBuildMsb := ⟨by decide, by decide⟩

theorem tblBuildLsb : Statement .tblBuildLsb := ⟨by decide, by decide⟩

theorem tblBuild : Statement .tblBuild := ⟨by decide, by decide⟩

theorem tblRead (idx : BitVec 8) : Statement (.tblRead idx) :=
  ⟨(field_and_mask 0x33#8 8 idx 0xFFFFFF00#32 (by decide) (by decide)).trans rfl,
    (congrArg formatOfOpcode (opcodeOf_word 0x33#8 (idx.setWidth 24))).trans rfl⟩

theorem tblMsb : Statement .tblMsb := ⟨by decide, by decide⟩

theorem tblLsb : Statement .tblLsb := ⟨by decide, by decide⟩

theorem crc : Statement .crc := ⟨by decide, by decide⟩

end Sys2Proof.Laws.OpcodeRow
end

