-- ==== Sys2Proof/Laws/Step.lean ====
section
/-! SUPPORT. What a command and a step can do, said once: every invariant and every whole-machine rule is a case analysis
over these lemmas. -/

namespace Sys2Proof.Machine

/-- The states a successful command can leave before its completion update: `Effect i s s'` says that `i` turned `s` into
`s'`. -/
inductive Effect (i : Instr) (s : State) : State → Prop
  /-- a command that computes or reads -/
  | none : Effect i s s
  /-- a WRCSR to one of the five staging numbers -/
  | staged (n : BitVec 12) (hi : i = .wrcsr n) (hn : 1 ≤ n.toNat ∧ n.toNat ≤ 5) (u : State) : Effect i s (restage s u)
  /-- a WRCSR to STATUS -/
  | statusWritten (hi : i = .wrcsr 0x020) : Effect i s { s with err := errAfterStatusWrite (opa s) s.err }
  /-- a CONFIGURE with a legal width -/
  | constructed (hi : i = .configure) (hw : LegalWidth s.cfgWidth.toNat) : Effect i s (withConstructed s)
  /-- a BIND with a legal width -/
  | bound (hi : i = .bind) (hw : LegalWidth s.cfgWidth.toNat) :
      Effect i s (tableInstall (shapeOfRefin s.cfgRefin) s.cfgWidth (withConstructed s).parPoly (withConstructed s))
  /-- one of the three builds -/
  | built (shape : Shape)
      (hi : (i = .tblBuildMsb ∧ shape = .msb) ∨ (i = .tblBuildLsb ∧ shape = .lsb) ∨
        (i = .tblBuild ∧ shape = shapeOfRefin s.parRefin))
      (hp : s.paramsValid = true) : Effect i s (tableInstall shape s.parWidth s.parPoly s)

/-- Everything a command can do: complete after one of its effects, or raise one of the codes 1 to 4 and change nothing
else. -/
theorem exec_effect (i : Instr) (s : State) :
    (∃ v s', exec i s = .next (answered v s') ∧ Effect i s s') ∨
      (∃ c, c ≠ .ok ∧ c ≠ .unknownAlgorithm ∧ exec i s = .next (erred (codeNumber c) s)) := by
  have E : ∀ c, c ≠ .ok → c ≠ .unknownAlgorithm → exec i s = raise c s →
      (∃ c, c ≠ .ok ∧ c ≠ .unknownAlgorithm ∧ exec i s = .next (erred (codeNumber c) s)) :=
    fun c h1 h2 h => ⟨c, h1, h2, h.trans (raise_eq c h1 s)⟩
  have D : ∀ v s', exec i s = respond v s' → Effect i s s' →
      (∃ v s', exec i s = .next (answered v s') ∧ Effect i s s') :=
    fun v s' h e => ⟨v, s', h.trans (respond_eq v s'), e⟩
  cases i with
  | nop => exact .inl (D 0 s rfl .none)
  | rdcsr n =>
    cases h : csrNamed n with
    | some r => exact .inl (D (readCsr r s) s (by simp [exec, execRdcsr, h]) .none)
    | none => exact .inr (E .illegalCommand (by decide) (by decide) (by simp [exec, execRdcsr, h]))
  | wrcsr n =>
    cases h : (csrNamed n).bind (fun r => writeCsr r (opa s) s) with
    | none => exact .inr (E .illegalCommand (by decide) (by decide) (by simp [exec, execWrcsr, h]))
    | some s' =>
      have e : exec (.wrcsr n) s = respond 0 s' := by simp [exec, execWrcsr, h]
      refine .inl (D 0 s' e ?_)
      obtain ⟨r, hr, hw⟩ := Option.bind_eq_some_iff.mp h
      unfold csrNamed at hr
      split at hr <;> simp only [Option.some.injEq, reduceCtorEq] at hr <;> subst hr <;>
        simp only [writeCsr, Option.some.injEq, reduceCtorEq] at hw
      case h_12 => subst hw; exact .statusWritten rfl
      all_goals exact (by subst hw; rfl : s' = restage s s') ▸ .staged _ rfl (by decide) s'
  | configure =>
    rcases constructParams_cases s with ⟨-, h⟩ | ⟨hl, h⟩
    · exact .inr (E .invalidParameters (by decide) (by decide) (by simp [exec, execConfigure, h]))
    · exact .inl (D 0 _ (by simp [exec, execConfigure, h]) (.constructed rfl hl))
  | bind =>
    rcases constructParams_cases s with ⟨-, h⟩ | ⟨hl, h⟩
    · exact .inr (E .invalidParameters (by decide) (by decide) (by simp [exec, execBind, h]))
    · exact .inl (D 0 _ (by simp [exec, execBind, h]) (.bound rfl hl))
  | reflect rw =>
    by_cases h : Config.maxWidth < rw.toNat
    · exact .inr (E .illegalCommand (by decide) (by decide) (if_pos h))
    · exact .inl (D _ s (if_neg h) .none)
  | refMsb =>
    by_cases h : s.paramsValid
    · exact .inl (D _ s (if_pos h) .none)
    · exact .inr (E .notConfigured (by decide) (by decide) (if_neg h))
  | refLsb =>
    by_cases h : s.paramsValid
    · exact .inl (D _ s (if_pos h) .none)
    · exact .inr (E .notConfigured (by decide) (by decide) (if_neg h))
  | refCrc =>
    by_cases h : s.paramsValid
    · exact .inl (D _ s (if_pos h) .none)
    · exact .inr (E .notConfigured (by decide) (by decide) (if_neg h))
  | tblBuildMsb =>
    by_cases h : s.paramsValid
    · exact .inl (D 0 _ (by simp [exec, execTblBuildMsb, h]) (.built .msb (by simp) h))
    · exact .inr (E .notConfigured (by decide) (by decide) (by simp [exec, execTblBuildMsb, h]))
  | tblBuildLsb =>
    by_cases h : s.paramsValid
    · exact .inl (D 0 _ (by simp [exec, execTblBuildLsb, h]) (.built .lsb (by simp) h))
    · exact .inr (E .notConfigured (by decide) (by decide) (by simp [exec, execTblBuildLsb, h]))
  | tblBuild =>
    by_cases h : s.paramsValid
    · exact .inl (D 0 (tableInstall (shapeOfRefin s.parRefin) s.parWidth s.parPoly s) (by simp [exec, execTblBuild, h])
        (.built (shapeOfRefin s.parRefin) (by simp) h))
    · exact .inr (E .notConfigured (by decide) (by decide) (by simp [exec, execTblBuild, h]))
  | tblRead k =>
    by_cases h : s.tableValid
    · exact .inl (D _ s (if_pos h) .none)
    · exact .inr (E .noTable (by decide) (by decide) (if_neg h))
  | tblMsb =>
    by_cases h : s.paramsValid
    · by_cases hm : tableMatches .msb s
      · exact .inl (D _ s ((if_pos h).trans (if_pos hm)) .none)
      · exact .inr (E .noTable (by decide) (by decide) ((if_pos h).trans (if_neg hm)))
    · exact .inr (E .notConfigured (by decide) (by decide) (if_neg h))
  | tblLsb =>
    by_cases h : s.paramsValid
    · by_cases hm : tableMatches .lsb s
      · exact .inl (D _ s ((if_pos h).trans (if_pos hm)) .none)
      · exact .inr (E .noTable (by decide) (by decide) ((if_pos h).trans (if_neg hm)))
    · exact .inr (E .notConfigured (by decide) (by decide) (if_neg h))
  | crc =>
    by_cases h : s.paramsValid
    · by_cases hm : tableMatches (shapeOfRefin s.parRefin) s
      · by_cases hr : s.parRefin
        · exact .inl (D _ s ((if_pos h).trans ((if_pos hm).trans (if_pos hr))) .none)
        · exact .inl (D _ s ((if_pos h).trans ((if_pos hm).trans (if_neg hr))) .none)
      · exact .inr (E .noTable (by decide) (by decide) ((if_pos h).trans (if_neg hm)))
    · exact .inr (E .notConfigured (by decide) (by decide) (if_neg h))

/-- Everything `step` can do, one case per shape of the host's next move. -/
theorem step_cases (s : State) :
    (s.host = [] ∧ step s = .next s) ∨
    ((∃ rest, s.host = .reset :: rest ∨ ∃ t, s.host = .resetDuring t :: rest) ∧
      step s = .next { State.reset with host := s.host.tail }) ∨
    (∃ t, inFlight s = some t ∧ deliverable t = false ∧ step s = .refused .notATransaction) ∨
    (∃ t i, inFlight s = some t ∧ deliverable t = true ∧ decode t.cmd = .ok i ∧ step s = exec i s) ∨
    (∃ t why, inFlight s = some t ∧ deliverable t = true ∧ decode t.cmd = .error why ∧
      step s = raise .illegalCommand s) := by
  match h : s.host with
  | [] => exact .inl ⟨rfl, by simp [step, h, stayIdle]⟩
  | .reset :: rest => exact .inr (.inl ⟨⟨rest, .inl rfl⟩, by simp [step, h, takeReset]⟩)
  | .resetDuring t :: rest => exact .inr (.inl ⟨⟨rest, .inr ⟨t, rfl⟩⟩, by simp [step, h, takeReset]⟩)
  | .command t :: rest =>
    have hf : inFlight s = some t := inFlight_eq_some.mpr ⟨rest, h⟩
    cases hd : deliverable t with
    | false => exact .inr (.inr (.inl ⟨t, hf, hd, by simp [step, h, hd]⟩))
    | true =>
      cases hc : decode t.cmd with
      | ok i => exact .inr (.inr (.inr (.inl ⟨t, i, hf, hd, hc, by simp [step, h, hd, hc]⟩)))
      | error why =>
        exact .inr (.inr (.inr (.inr ⟨t, why, hf, hd, hc, by simp [step, h, hd, hc, raiseIllegalWord]⟩)))

/-- Everything a step that has a next state can do: stay idle, take a reset, or complete a command. -/
theorem step_effect {s t : State} (h : step s = .next t) :
   (s.host = [] ∧ t = s) ∨
   (∃ m rest, s.host = m :: rest ∧ (m = .reset ∨ ∃ c, m = .resetDuring c) ∧ t = {State.reset with host := rest}) ∨
   (∃ c, inFlight s = some c ∧ ((∃ i v s', decode c.cmd = .ok i ∧ Effect i s s' ∧ t = answered v s') ∨
      (∃ k, k ≠ .ok ∧ k ≠ .unknownAlgorithm ∧ t = erred (codeNumber k) s))) := by
  rcases step_cases s with ⟨a,e⟩|⟨⟨r,a⟩,e⟩|⟨t',a,h',e⟩|⟨t',i',a,h',h'',e⟩|⟨t',y,a,h',h'',e⟩ <;> rw [e] at h
  · cases h; exact .inl ⟨a, rfl⟩
  · cases h
    rcases a with a|⟨c,a⟩
    · exact .inr (.inl ⟨_, _, a, .inl rfl, by simp [a]⟩)
    · exact .inr (.inl ⟨_, _, a, .inr ⟨c,rfl⟩, by simp [a]⟩)
  · cases h
  · refine .inr (.inr ⟨t', a, ?_⟩)
    rcases exec_effect i' s with ⟨v,s',e',hh⟩|⟨c,h1,h2,e'⟩ <;> rw [e'] at h <;> cases h
    · exact .inl ⟨i', v, s', h'', hh, rfl⟩
    · exact .inr ⟨c, h1, h2, rfl⟩
  · rw [raise_eq _ (by decide)] at h; cases h
    exact .inr (.inr ⟨t', a, .inr ⟨.illegalCommand, by decide, by decide, rfl⟩⟩)

/-! ## The core's state is all a command reads of the machine, with its transaction -/

/-- Two results that are next states with one core state and one response. -/
def SameCore (a b : Result) : Prop :=
  ∃ s u, a = .next s ∧ b = .next u ∧ s.toCoreState = u.toCoreState ∧ s.response = u.response

theorem sameCore_complete (c : Code) (v : Word) {s u : State} (h : s.toCoreState = u.toCoreState) :
    SameCore (.next (complete c v s)) (.next (complete c v u)) :=
  ⟨_, _, rfl, rfl, by simp [complete, h], rfl⟩

/-- R33: a command is a function of the core's state (R52) and of the transaction in flight. Neither the host's later moves
nor an earlier response reach the core's next state or the response. -/
theorem exec_sameCore (i : Instr) {s u : State} (h : s.toCoreState = u.toCoreState) (ht : inFlight s = inFlight u) :
    SameCore (exec i s) (exec i u) := by
  have ho : opa s = opa u := by simp [opa, ht]
  have hm : msg s = msg u := by simp [msg, ht]
  obtain ⟨c, hs, rs⟩ := s
  obtain ⟨c', hu, ru⟩ := u
  obtain rfl : c = c' := h
  have R : ∀ (k : Code) (v : Word), SameCore (.next (complete k v ⟨c, hs, rs⟩)) (.next (complete k v ⟨c, hu, ru⟩)) :=
    fun k v => sameCore_complete k v rfl
  have hp : params ⟨c, hs, rs⟩ = params ⟨c, hu, ru⟩ := rfl
  have hM : ∀ shape, tableMatches shape ⟨c, hs, rs⟩ = tableMatches shape ⟨c, hu, ru⟩ := fun _ => rfl
  cases i with
  | nop => exact R _ _
  | rdcsr n =>
    simp only [exec, execRdcsr]
    cases csrNamed n with
    | none => exact R _ _
    | some r => cases r <;> exact R _ _
  | wrcsr n =>
    simp only [exec, execWrcsr, ho]
    cases csrNamed n with
    | none => exact R _ _
    | some r => cases r <;> first | exact R _ _ | exact sameCore_complete .ok 0 rfl
  | configure =>
    simp only [exec, execConfigure, constructParams]
    split_ifs
    · exact R _ _
    · exact sameCore_complete .ok 0 rfl
  | bind =>
    simp only [exec, execBind, constructParams]
    split_ifs
    · exact R _ _
    · exact sameCore_complete .ok 0 rfl
  | reflect rw => simp only [exec, execReflect, ho]; split_ifs <;> exact R _ _
  | refMsb => simp only [exec, execRefMsb, hm, hp]; split_ifs <;> exact R _ _
  | refLsb => simp only [exec, execRefLsb, hm, hp]; split_ifs <;> exact R _ _
  | refCrc => simp only [exec, execRefCrc, hm, hp]; split_ifs <;> exact R _ _
  | tblBuildMsb =>
    simp only [exec, execTblBuildMsb]; split_ifs
    · exact sameCore_complete .ok 0 rfl
    · exact R _ _
  | tblBuildLsb =>
    simp only [exec, execTblBuildLsb]; split_ifs
    · exact sameCore_complete .ok 0 rfl
    · exact R _ _
  | tblBuild =>
    simp only [exec, execTblBuild]; split_ifs
    · exact sameCore_complete .ok 0 rfl
    · exact R _ _
  | tblRead k => simp only [exec, execTblRead]; split_ifs <;> exact R _ _
  | tblMsb => simp only [exec, execTblMsb, hm, hp, hM .msb]; split_ifs <;> exact R _ _
  | tblLsb => simp only [exec, execTblLsb, hm, hp, hM .lsb]; split_ifs <;> exact R _ _
  | crc => simp only [exec, execCrc, hm, hp, hM (shapeOfRefin c.parRefin)]; split_ifs <;> exact R _ _
end Sys2Proof.Machine
end

