-- ==== Sys2Proof/Laws/Table.lean ====
section
/-! SUPPORT. The inner passes of the two table constructions: what each entry is afterwards, and that writing the entries
one by one, in the order the spec's loops have (42_table_builder.md R151, R152), ends in the same table. -/

namespace Sys2Proof.Machine

theorem table_ext {T U : Table} (h : ∀ k, k < 256 → entryAt T k = entryAt U k) : T = U := by
  refine Vector.ext fun k hk => ?_
  have := h k hk
  simpa [entryAt, hk] using this

theorem entryAt_fillPass (c : Word) (i : Nat) (js : List Nat) (T : Table) {k : Nat} (hk : k < 256) :
    entryAt (fillPass c i js T) k = passEntry c i js T k := by
  simp [entryAt, fillPass, hk]

/-- The spec's own inner loop: one write after another, each reading the table as the writes before it left it. -/
def fillLoop (c : Word) (i : Nat) (js : List Nat) (T : Table) : Table :=
  js.foldl (fun T' j => setEntry T' (i + j) (c ^^^ entryAt T' j)) T

/-- What the loop leaves, when it writes no entry that it reads. -/
theorem entryAt_fillLoop (c : Word) (i : Nat) (js : List Nat) (T : Table) (hb : ∀ j ∈ js, i + j < 256)
    (hd : ∀ j ∈ js, ∀ j' ∈ js, j ≠ i + j') (k : Nat) :
    entryAt (fillLoop c i js T) k = passEntry c i js T k := by
  induction js generalizing T with
  | nil => simp [fillLoop, passEntry]
  | cons j js ih =>
    have hj : i + j < 256 := hb j (by simp)
    have hr : ∀ m ∈ js, entryAt (setEntry T (i + j) (c ^^^ entryAt T j)) m = entryAt T m := fun m hm =>
      entryAt_setEntry_other T (hd m (by simp [hm]) j (by simp)) _
    rw [show fillLoop c i (j :: js) T = fillLoop c i js (setEntry T (i + j) (c ^^^ entryAt T j)) from rfl,
      ih _ (fun m hm => hb m (by simp [hm])) (fun m hm m' hm' => hd m (by simp [hm]) m' (by simp [hm']))]
    unfold passEntry
    by_cases h1 : i ≤ k ∧ k - i ∈ js
    · rw [if_pos h1, hr _ h1.2, if_pos ⟨h1.1, by simp [h1.2]⟩]
    · rw [if_neg h1, entryAt_setEntry T hj]
      by_cases h2 : k = i + j
      · subst h2; simp
      · rw [if_neg h2, if_neg]
        rintro ⟨h3, h4⟩
        rcases List.mem_cons.mp h4 with h5 | h5
        · omega
        · exact h1 ⟨h3, h5⟩

/-- A pass made at once is the loop, when the loop writes no entry that it reads. -/
theorem fillPass_eq_loop (c : Word) (i : Nat) (js : List Nat) (T : Table) (hb : ∀ j ∈ js, i + j < 256)
    (hd : ∀ j ∈ js, ∀ j' ∈ js, j ≠ i + j') : fillPass c i js T = fillLoop c i js T :=
  table_ext fun _ hk => (entryAt_fillPass c i js T hk).trans (entryAt_fillLoop c i js T hb hd _).symm

/-- Every pass of the MSB construction is the spec's loop over `j` from 0 to `i - 1` (R151). -/
theorem msbPass_eq_loop (w : Nat) (p : Word) (cT : Word × Table) {i : Nat} (hi : i ∈ [1, 2, 4, 8, 16, 32, 64, 128]) :
    msbPass w p cT i = (msbStep w p cT.1, fillLoop (msbStep w p cT.1) i (List.range i) cT.2) := by
  have h : i ≤ 128 := by revert i; decide
  refine Prod.ext rfl (fillPass_eq_loop _ _ _ _ ?_ ?_)
  · intro j hj; have := List.mem_range.mp hj; omega
  · intro j hj j' hj'; have := List.mem_range.mp hj; omega

/-- Every pass of the LSB construction is the spec's loop over `j` in strides of `2 * i` (R152). -/
theorem lsbPass_eq_loop (rp : Word) (cT : Word × Table) {i : Nat} (hi : i ∈ [128, 64, 32, 16, 8, 4, 2, 1]) :
    lsbPass rp cT i = (lsbStep rp cT.1, fillLoop (lsbStep rp cT.1) i (lsbIndices i) cT.2) := by
  have h : ∀ i ∈ [128, 64, 32, 16, 8, 4, 2, 1], (∀ j ∈ lsbIndices i, i + j < 256) ∧
      ∀ j ∈ lsbIndices i, (2 * i) ∣ j := by decide +kernel
  refine Prod.ext rfl (fillPass_eq_loop _ _ _ _ (h i hi).1 ?_)
  intro j hj j' hj' he
  obtain ⟨a, ha⟩ := (h i hi).2 j hj
  obtain ⟨b, hb⟩ := (h i hi).2 j' hj'
  have hpos : 0 < i := (by decide : ∀ i ∈ [128, 64, 32, 16, 8, 4, 2, 1], 0 < i) i hi
  subst hb; subst ha
  have : i * (2 * a) = i * (1 + 2 * b) := by linarith
  have := Nat.eq_of_mul_eq_mul_left hpos this
  omega

end Sys2Proof.Machine
end

