-- ==== Sys2Proof/Machine/Pseudo.lean ====
section
/-! DEFINITION. The transactions an assembler makes of a command (30_encoding.md R103, R105) and the pseudo-instructions
SETPARAMS, SETUP and CLRERR (R104). They are sequences of commands, no instructions of their own; nothing here is part of a
step. -/

namespace Sys2Proof.Machine

/-- A command with an operand and no message (R105). -/
def plainTransaction (i : Instr) (operand : Word) : Transaction := { cmd := encode i, opa := operand, msg := [] }

/-- A message command: the assembler sets `OPA = len(MSG)` (R103). -/
def messageTransaction (i : Instr) (message : List Byte) : Transaction :=
  { cmd := encode i, opa := BitVec.ofNat 64 message.length, msg := message }

/-- The five staging writes of SETPARAMS and SETUP, in order (R104). -/
def stagingWrites (w poly init : Word) (refin refout : Bool) (xorout : Word) : List Transaction :=
  [plainTransaction (.wrcsr 0x001) w, plainTransaction (.wrcsr 0x002) poly, plainTransaction (.wrcsr 0x003) init,
    plainTransaction (.wrcsr 0x004) xorout, plainTransaction (.wrcsr 0x005) (flagsWord refin refout)]

/-- `SETPARAMS w, poly, init, refin, refout, xorout` (R104). -/
def setparams (w poly init : Word) (refin refout : Bool) (xorout : Word) : List Transaction :=
  stagingWrites w poly init refin refout xorout ++ [plainTransaction .configure 0]

/-- `SETUP w, poly, init, refin, refout, xorout` (R104). -/
def setup (w poly init : Word) (refin refout : Bool) (xorout : Word) : List Transaction :=
  stagingWrites w poly init refin refout xorout ++ [plainTransaction .bind 0]

/-- `CLRERR` (R104). -/
def clrerr : List Transaction := [plainTransaction (.wrcsr 0x020) 0x8]

end Sys2Proof.Machine
end

