-- ==== Sys2Proof/Tests/Slice0.lean ====
section
/-! SUPPORT. Tests. Every expected value is copied from the spec (the file and rule stand at the test); none is the model's own
answer. After the tests, for every statement with hypotheses, a witness that meets them. -/

namespace Sys2Proof.Tests.Slice0

open Sys2Proof Sys2Proof.Machine

/-! ## Helpers -/

/-- The message "123456789" (20_memory.md R75). -/
def digits : List Byte := [0x31, 0x32, 0x33, 0x34, 0x35, 0x36, 0x37, 0x38, 0x39]

/-- `s` with one command in flight. -/
def send (cmd : CmdWord) (operand : Word) (message : List Byte) (s : State) : State :=
  { s with host := [.command { cmd := cmd, opa := operand, msg := message }] }

/-- The state of a result that is a next state, and the reset state otherwise. -/
def next (r : Result) : State :=
  match r with
  | .next t => t
  | _ => State.reset

/-- Code and result of the response of a next state. -/
def reply (r : Result) : Option (Nat × Nat) :=
  match r with
  | .next t => t.response.map (fun x => (x.code.toNat, x.result.toNat))
  | _ => none

/-- Staging registers filled by five WRCSR (30_encoding.md R104). -/
def staged (w p i x : Word) (refin refout : Bool) : State :=
  { State.reset with cfgWidth := w, cfgPoly := p, cfgInit := i, cfgXorout := x, cfgRefin := refin, cfgRefout := refout }

/-- The state after SETPARAMS (R104). -/
def configured (w p i x : Word) (refin refout : Bool) : State :=
  next (execConfigure (send 0x03000000 0 [] (staged w p i x refin refout)))

/-- The state after SETUP (R104). -/
def bound (w p i x : Word) (refin refout : Bool) : State :=
  next (execBind (send 0x04000000 0 [] (staged w p i x refin refout)))

/-- P of CRC-8, constructed (95_test_vectors.md 1.1). -/
def crc8 : State := configured 8 0xD5 0 0 false false

/-- P of CRC-32, constructed. -/
def crc32 : State := configured 32 0x04C11DB7 0xFFFFFFFF 0xFFFFFFFF true true

/-- `s` with a table of its own parameters installed, written out so that no test builds it. -/
def withTable (shape : Shape) (s : State) : State :=
  { s with table := buildTable shape s.parWidth.toNat s.parPoly, tableValid := true, tblShape := shape,
           tblWidth := s.parWidth, tblPoly := s.parPoly }

/-! ## WellFormed: an ill-formed term for its one check -/

theorem test_wellFormed_refuses_widths_above_64 : WellFormed (.reflect 65) = false ∧ WellFormed (.reflect 127) = false := by
  decide

theorem test_wellFormed_takes_widths_0_and_64 : WellFormed (.reflect 0) = true ∧ WellFormed (.reflect 64) = true := by
  decide

/-! ## Decoding: a word of every command, written from R92 and R99 (opcode in bits 31:24, the field below) -/

theorem test_decode_words : ∀ x ∈ [
    (0b00000000000000000000000000000000#32, Instr.nop),
    (0b00000001000000000000000000100011#32, Instr.rdcsr 0x023),
    (0b00000010000000000000111111111111#32, Instr.wrcsr 0xFFF),
    (0b00000011000000000000000000000000#32, Instr.configure),
    (0b00000100000000000000000000000000#32, Instr.bind),
    (0b00010000000000000000000001000000#32, Instr.reflect 64),
    (0b00100000000000000000000000000000#32, Instr.refMsb),
    (0b00100001000000000000000000000000#32, Instr.refLsb),
    (0b00100010000000000000000000000000#32, Instr.refCrc),
    (0b00110000000000000000000000000000#32, Instr.tblBuildMsb),
    (0b00110001000000000000000000000000#32, Instr.tblBuildLsb),
    (0b00110010000000000000000000000000#32, Instr.tblBuild),
    (0b00110011000000000000000011111110#32, Instr.tblRead 254),
    (0b01000000000000000000000000000000#32, Instr.tblMsb),
    (0b01000001000000000000000000000000#32, Instr.tblLsb),
    (0b01000010000000000000000000000000#32, Instr.crc)],
    decode x.1 = .ok x.2 := by decide

/-- 95_test_vectors.md 2.5: unassigned opcodes. -/
theorem test_decode_unassigned : [0x05000000#32, 0x0F000000#32, 0x11000000#32, 0x23000000#32, 0x34000000#32,
    0x43000000#32, 0xFF000000#32].map decode = List.replicate 7 (.error .unassignedOpcode) := by decide

/-- 95_test_vectors.md 2.1, 2.3.3 and 2.5: reserved fields, one word of each format. -/
theorem test_decode_reserved : [0x04000100#32, 0x01001000#32, 0x10000080#32, 0x42000001#32, 0x33000100#32].map decode
    = List.replicate 5 (.error .reservedField) := by decide

theorem test_decodeTableWord : decodeTableWord 32 0x330000FF = some (.tblRead 255) ∧
    decodeTableWord 32 0x10000041 = none := by decide

/-- R104 and R105: the words and operands of SETUP for CRC-32, and of CLRERR. -/
theorem test_setup_words : (setup 32 0x04C11DB7 0xFFFFFFFF true true 0xFFFFFFFF).map (fun t => (t.cmd, t.opa)) =
      [(0x02000001, 32), (0x02000002, 0x04C11DB7), (0x02000003, 0xFFFFFFFF), (0x02000004, 0xFFFFFFFF), (0x02000005, 3),
        (0x04000000, 0)] ∧
    clrerr = [{ cmd := 0x02000020, opa := 8, msg := [] }] := by decide

/-! ## Commands -/

/-- 2.5: with ERR = 1, NOP leaves ERR at 1 and sets LAST_CODE to 0. -/
theorem test_nop_keeps_err : (next (execNop { State.reset with err := true, lastCode := 4 })).err = true ∧
    (next (execNop { State.reset with err := true, lastCode := 4 })).lastCode = 0 := by decide

/-- P3 line 23: STATUS = 0x209 with LAST_CODE = 2, ERR and PARAMS_VALID set. -/
theorem test_rdcsr_status :
    reply (execRdcsr 0x020 { crc8 with err := true, lastCode := 2 }) = some (0, 0x209) := by decide

/-- P3 line 22: CSR number 0x006 is unassigned. -/
theorem test_rdcsr_unassigned : reply (execRdcsr 0x006 State.reset) = some (2, 0) := by decide

/-- P3 line 12: reserved bits of CFG_FLAGS are ignored. -/
theorem test_wrcsr_flags : let t := next (execWrcsr 0x005 (send 0x02000005 0xFF [] State.reset))
    (t.cfgRefin, t.cfgRefout) = (true, true) ∧ reply (execRdcsr 0x005 t) = some (0, 3) := by decide

/-- P3 line 21: ID is read-only. -/
theorem test_wrcsr_id : reply (execWrcsr 0x000 (send 0x02000000 1 [] State.reset)) = some (2, 0) := by decide

/-- 2.5: CONFIGURE masks, never rejects. -/
theorem test_configure_masks : let t := configured 16 0x18005 0xFFFFFFFF 0 true true
    (t.parPoly, t.parInit, t.parRefin, t.parRefout, t.paramsValid) = (0x8005, 0xFFFF, true, true, true) := by
  decide

/-- 2.5: CFG_WIDTH = 0x100000010 is not truncated to 16. -/
theorem test_configure_wide : reply (execConfigure (staged 0x100000010 0 0 0 false false)) = some (1, 0) := by
  decide

/-- P3 line 6: width 65, nothing built. -/
theorem test_bind_width_65 : reply (execBind (staged 65 0 0 0 false false)) = some (1, 0) := by decide

/-- P5 lines 1 and 3. -/
theorem test_reflect : reply (execReflect 64 (send 0x10000040 0x42F0E1EBA9EA3693 [] State.reset))
      = some (0, 0xC96C5795D7870F42) ∧
    reply (execReflect 8 (send 0x10000008 0x1D5 [] State.reset)) = some (0, 0xAB) := by decide

/-- P5 line 2: width 0. -/
theorem test_reflect_width_0 : reply (execReflect 0 (send 0x10000000 3 [] State.reset)) = some (0, 0) := by
  decide

/-- 1.1: CRC-8. -/
theorem test_refMsb_crc8 : reply (execRefMsb (send 0x20000000 9 digits crc8)) = some (0, 0xBC) := by decide +kernel

/-- 2.2.2: the widened feed for a width below 8; the rejected literal reading gives 0x1B. -/
theorem test_msbFeed_below_8 : msbFeed 5 0x09 0x09 0x31 = 0x12 := by decide

/-- 1.1: CRC-16/MODBUS. -/
theorem test_refLsb_modbus :
    reply (execRefLsb (send 0x21000000 9 digits (configured 16 0x8005 0xFFFF 0 true true))) = some (0, 0x4B37) := by
  decide +kernel

/-- 2.2.2: one mask, at the end, for a width below 8. -/
theorem test_lsbFeed_below_8 : lsbFeed 4 0xC 0 0x31 = 0x9 := by decide

/-- 1.1: CRC-32. -/
theorem test_refCrc_crc32 : reply (execRefCrc (send 0x22000000 9 digits crc32)) = some (0, 0xCBF43926) := by
  decide +kernel

/-- 2.2.4: the empty message with `refout = 1` alone. -/
theorem test_refCrc_empty :
    reply (execRefCrc (send 0x22000000 0 [] (configured 16 0x1021 0x1234 0xFF false true))) = some (0, 0x2CB7) := by
  decide

/-- P3 line 18: no table yet. -/
theorem test_tblRead_none : reply (execTblRead 0 State.reset) = some (4, 0) := by decide

/-- P3 line 1: nothing constructed. -/
theorem test_crc_reset : reply (execCrc (send 0x42000000 9 digits State.reset)) = some (3, 0) := by decide

/-! ## Steps -/

/-- 2.5: decode comes before NOT_CONFIGURED. -/
theorem test_step_illegal_first : reply (step (send 0x42000001 0 [] State.reset)) = some (2, 0) := by decide

/-- 93_implementation_defined.md item 4: a message of the wrong length has no step, nor has a message with NOP. -/
theorem test_step_not_a_transaction :
    (match step (send 0x20000000 8 digits crc8) with | .refused r => r == .notATransaction | _ => false) = true ∧
    (match step (send 0x00000000 1 [0x31] crc8) with | .refused r => r == .notATransaction | _ => false) = true := by
  decide

/-- R250: reset, between commands and during one. -/
theorem test_step_reset :
    (next (step { crc8 with host := [.reset] })).paramsValid = false ∧
    (next (step { withTable .msb crc8 with host := [.resetDuring { cmd := 0x04000000, opa := 0, msg := [] }] })).tableValid
      = false := by
  decide

/-! ## Witnesses: states and operands that meet the hypotheses of the statements, at the ends of their ranges -/

/-- CommandWords, in every statement that has it: a delivered word of each opcode. -/
theorem witness_commandWords : ∀ o ∈ [0x00, 0x01, 0x02, 0x03, 0x04, 0x10, 0x20, 0x21, 0x22, 0x30, 0x31, 0x32, 0x33, 0x40,
    0x41, 0x42], let t : Transaction := { cmd := BitVec.ofNat 32 (o * 2 ^ 24), opa := 0, msg := [] }
    inFlight (send t.cmd 0 [] State.reset) = some t ∧ deliverable t = true ∧ t.cmd.toNat / 2 ^ 24 = o := by
  decide

theorem witness_encoded : WellFormed (.reflect 64) = true ∧ WellFormed (.reflect 0) = true := by decide

theorem witness_decoded : decode 0x330000FF#32 = .ok (.tblRead 255) ∧ decode 0x10000040#32 = .ok (.reflect 64) := by
  decide

theorem witness_illegal : let t : Transaction := { cmd := 0x10000041, opa := 5, msg := [] }
    inFlight (send 0x10000041 5 [] State.reset) = some t ∧ deliverable t = true ∧
    decode t.cmd = .error .reflectWidth := by decide

/-- IllegalWordsRaiseIllegalCommand, last clause: unassigned CSR numbers beside the assigned ones and at the top. -/
theorem witness_unassigned : ∀ n ∈ [0x006, 0x010, 0x016, 0x01F, 0x024, 0xFFF],
    n ∉ [0x000, 0x001, 0x002, 0x003, 0x004, 0x005, 0x011, 0x012, 0x013, 0x014, 0x015, 0x020, 0x021, 0x022, 0x023] := by
  decide

/-- StepRunsTheDecodedCommand, EveryDeliveredCommandCompletes and CompletionUpdatesStatus: a message command with its message. -/
theorem witness_delivered : let t : Transaction := { cmd := 0x42000000, opa := 9, msg := digits }
    inFlight (send 0x42000000 9 digits State.reset) = some t ∧ deliverable t = true ∧ decode t.cmd = .ok .crc := by
  decide

/-- HostMovesAreTakenInOrder: a state with a move and a state with none. -/
theorem witness_hostMoves : (∃ t, step (send 0 0 [] State.reset) = .next t) ∧ State.reset.host = [] :=
  ⟨⟨_, rfl⟩, rfl⟩

theorem witness_reset : let s : State := { crc8 with host := [.resetDuring { cmd := 0, opa := 0, msg := [] }, .reset] }
    ∃ m rest, s.host = m :: rest ∧ (m = .reset ∨ ∃ t, m = .resetDuring t) :=
  ⟨_, _, rfl, .inr ⟨_, rfl⟩⟩

/-- CONFIGURE and BIND: both sides of both ends of the width range. -/
theorem witness_widths :
    ((staged 0 0 0 0 false false).cfgWidth.toNat < 1 ∧ 64 < (staged 65 0 0 0 false false).cfgWidth.toNat) ∧
    LegalWidth (staged 1 0 0 0 false false).cfgWidth.toNat ∧ LegalWidth (staged 64 0 0 0 false false).cfgWidth.toNat := by
  decide

theorem witness_reflect : 64 < (65 : BitVec 7).toNat ∧ (64 : BitVec 7).toNat ≤ 64 ∧ (0 : BitVec 7).toNat ≤ 64 := by
  decide

/-- ReflectLaws, at the ends of the width range. -/
theorem witness_reflectLaws : FitsWidth 0 0 ∧ FitsWidth 64 0xFFFFFFFFFFFFFFFF ∧ FitsWidth 1 1 := by decide

/-- The statements over a width, a polynomial and registers: widths 1, 7, 8 and 64. -/
theorem witness_registers :
    (LegalWidth 1 ∧ FitsWidth 1 1 ∧ FitsWidth 1 0) ∧ (LegalWidth 7 ∧ FitsWidth 7 0x09 ∧ FitsWidth 7 0x7F) ∧
    (LegalWidth 8 ∧ FitsWidth 8 0xD5 ∧ FitsWidth 8 0xFF) ∧
    (LegalWidth 64 ∧ FitsWidth 64 0x42F0E1EBA9EA3693 ∧ FitsWidth 64 0xFFFFFFFFFFFFFFFF) := by decide

/-- The statements over a parameter set: widths 1, 5 and 64. -/
theorem witness_params :
    LegalParams { w := 1, poly := 1, init := 1, refin := true, refout := false, xorout := 1 } ∧
    LegalParams { w := 5, poly := 0x15, init := 0x1F, refin := true, refout := false, xorout := 0 } ∧
    LegalParams { w := 64, poly := 0x42F0E1EBA9EA3693, init := 0xFFFFFFFFFFFFFFFF, refin := true, refout := true,
                  xorout := 0xFFFFFFFFFFFFFFFF } := by decide

/-- The engine and build commands: parameters not constructed, and constructed with either `refin`. -/
theorem witness_paramsValid : State.reset.paramsValid = false ∧ (crc8.paramsValid = true ∧ crc8.parRefin = false) ∧
    (crc32.paramsValid = true ∧ crc32.parRefin = true) := by decide

theorem witness_tableValid : State.reset.tableValid = false ∧ (withTable .msb crc8).tableValid = true := by
  decide

/-- TBL_MSB, TBL_LSB and CRC: a table that matches and one that does not. -/
theorem witness_matching :
    (Matching .msb (withTable .msb crc8) ∧ ¬ Matching .lsb (withTable .msb crc8) ∧ Bound (withTable .msb crc8)) ∧
    (Matching .lsb (withTable .lsb crc32) ∧ ¬ Matching .msb (withTable .lsb crc32) ∧ Bound (withTable .lsb crc32)) ∧
    (crc8.paramsValid = true ∧ ¬ Bound crc8) := by decide

/-- A CRC-8 set staged, and a BIND in flight with a NOP to come. -/
def bindThenNop : State := { staged 8 0xD5 0 0 false false with
  host := [.command { cmd := 0x04000000, opa := 0, msg := [] }, .command { cmd := 0x00000000, opa := 0, msg := [] }] }

/-- The state its BIND leaves. -/
def boundThenNop : State := answered 0 (tableInstall (shapeOfRefin bindThenNop.cfgRefin) bindThenNop.cfgWidth
  (withConstructed bindThenNop).parPoly (withConstructed bindThenNop))

theorem bindThenNop_bind : exec .bind bindThenNop = .next boundThenNop := by
  rcases constructParams_cases bindThenNop with ⟨h, -⟩ | ⟨-, h⟩
  · exact absurd (by decide) h
  · simp only [exec, execBind, h]
    exact respond_eq 0 _

/-- PipelineAnswersTheReferenceCrc: a successful BIND, then a run of one NOP. -/
theorem witness_pipeline : exec .bind bindThenNop = .next boundThenNop ∧ boundThenNop.lastCode = 0 ∧
    ∃ s₂, Relation.ReflTransGen KeepsBinding boundThenNop s₂ ∧ s₂ ≠ boundThenNop := by
  have hh : boundThenNop.host = [.command { cmd := 0x00000000, opa := 0, msg := [] }] := by
    simp [boundThenNop, answered, bindThenNop]
  have hn : ∀ u : State, u.host = [.command { cmd := 0x00000000, opa := 0, msg := [] }] → step u = .next (answered 0 u) := by
    intro u hu
    simp only [step, hu]
    exact respond_eq 0 u
  have hs := hn boundThenNop hh
  refine ⟨bindThenNop_bind, rfl, answered 0 boundThenNop,
    .single ⟨{ cmd := 0x00000000, opa := 0, msg := [] }, by simp [inFlight, hh], hs, fun _ => ?_⟩, fun h => ?_⟩
  · exact ⟨by decide, by decide, fun h => absurd h (by decide), fun h => absurd h (by decide)⟩
  · have := congrArg State.host h
    simp [answered, hh] at this

/-- ForeignBuildUnbindsTheTable: a successful BIND, then the other build. -/
theorem witness_foreignBuild : exec .bind bindThenNop = .next boundThenNop ∧ boundThenNop.lastCode = 0 ∧
    ∃ s₂, exec (if boundThenNop.parRefin then .tblBuildMsb else .tblBuildLsb) boundThenNop = .next s₂ :=
  ⟨bindThenNop_bind, rfl, by
    rcases exec_effect (if boundThenNop.parRefin then .tblBuildMsb else .tblBuildLsb) boundThenNop with
      ⟨v, s', h, -⟩ | ⟨c, -, -, h⟩ <;> exact ⟨_, h⟩⟩

/-- StaleTableIsRefused: a bound table and a CONFIGURE that changes `init` only, `refin` only, or the polynomial. -/
theorem witness_staleTable : let b := withTable .msb (configured 5 0x09 0x09 0 false false)
    let t₁ := next (execConfigure { b with cfgInit := 0x1F })
    let t₂ := next (execConfigure { b with cfgRefin := true })
    let t₃ := next (execConfigure { b with cfgPoly := 0x15 })
    Bound b ∧ t₁.lastCode = 0 ∧ t₂.lastCode = 0 ∧ t₃.lastCode = 0 ∧
    (t₁.parPoly = b.parPoly ∧ t₁.parRefin = b.parRefin) ∧ (t₂.parPoly = b.parPoly ∧ t₂.parRefin ≠ b.parRefin) ∧
    t₃.parPoly ≠ b.parPoly := by decide

/-- EveryStepKeepsTheInvariant and EntryBytesReading: a state with a table that meets the invariant, and one without. -/
theorem witness_invariant :
    Inv { withTable .msb crc8 with host := [.command { cmd := 0x42000000, opa := 9, msg := digits }] } ∧ Inv State.reset := by
  refine ⟨⟨by decide, by decide, fun _ => ⟨by decide, by decide, rfl⟩, by decide,
    by decide, ?_⟩, by decide, by decide, fun h => absurd h (by decide), by decide,
    by decide, rfl⟩
  exact ⟨by decide, by decide⟩

/-- OnlyConstructionWritesTheActiveSet, OnlyBuildsWriteTheTable and OnlyWrcsrWritesTheStagingSet: steps that do write. -/
theorem witness_writes :
    activeSet (next (step (send 0x03000000 0 [] (staged 8 0xD5 0 0 false false))))
      ≠ activeSet (send 0x03000000 0 [] (staged 8 0xD5 0 0 false false)) ∧
    tableSet (next (step (send 0x30000000 0 [] crc8))) ≠ tableSet (send 0x30000000 0 [] crc8) ∧
    stagingSet (next (step (send 0x02000001 8 [] State.reset))) ≠ stagingSet (send 0x02000001 8 [] State.reset) := by
  refine ⟨fun h => ?_, fun h => ?_, fun h => ?_⟩
  · exact absurd (congrArg Prod.fst h) (by decide)
  · exact absurd (congrArg (fun x => x.2.1) h) (by decide)
  · exact absurd (congrArg Prod.fst h) (by decide)

/-- ParamsValidLifecycle and ErrIsSticky: a reset that clears both bits, and the write that clears ERR. -/
theorem witness_clears : let s : State := { crc8 with err := true, host := [.reset] }
    (s.paramsValid = true ∧ (next (step s)).paramsValid = false) ∧ (s.err = true ∧ (next (step s)).err = false) ∧
    (let u := send 0x02000020 8 [] s; (next (step u)).err = false ∧ (opa u).getLsbD 3 = true) ∧
    (next (execConfigure (staged 64 0 0 0 false false))).lastCode = 0 := by decide

/-- ErrorsArePrecise, ErrIsSticky and CodesEachCommandCanRaise: a step that raises a code. -/
theorem witness_error : (next (step (send 0x33000000 0 [] State.reset))).lastCode ≠ 0 := by decide

/-- Every command completes, so the statements over `exec i s = .next t` have a case for each of their commands; the
second run of RepeatedReadsAgree too. -/
theorem witness_completes : ∀ (i : Instr) (s : State), ∃ t, exec i s = .next t := fun i s => by
  rcases exec_effect i s with ⟨v, s', h, -⟩ | ⟨c, -, -, h⟩ <;> exact ⟨_, h⟩

theorem witness_reads : (0x021 : BitVec 12) ≠ 0x020 ∧ ∃ t u, exec (.rdcsr 0x021) crc8 = .next t ∧
    exec (.rdcsr 0x021) { t with host := [] } = .next u :=
  let ⟨t, ht⟩ := witness_completes (.rdcsr 0x021) crc8
  let ⟨u, hu⟩ := witness_completes (.rdcsr 0x021) { t with host := [] }
  ⟨by decide, t, u, ht, hu⟩

/-- InvalidTableIsUnobservable: the reset state. -/
theorem witness_unobservable : State.reset.tableValid = false ∧ ∃ t, step State.reset = .next t := ⟨rfl, _, rfl⟩

/-! ## Commands that build or read a table (last, since their evaluation is the longest) -/

/-- P4 lines 8 and 9: BIND builds the table; its entries 1 and 0x31. -/
theorem test_bind_builds : let t := bound 5 0x09 0x09 0 false false
    tableEntry t.table 1 = 0x9 ∧ tableEntry t.table 0x31 = 0x7 ∧ t.tblShape = .msb ∧ t.tableValid = true := by
  decide

/-- R155: entries 2 and 255 of the MSB table of CRC-8. -/
theorem test_tblBuildMsb : let t := next (execTblBuildMsb crc8)
    tableEntry t.table 2 = 0x7F ∧ tableEntry t.table 255 = 0xF9 ∧ t.tblShape = .msb ∧ t.tblPoly = 0xD5 := by
  decide

/-- R156: entries 1 and 255 of the LSB table of CRC-32; the tag holds the unreflected polynomial. -/
theorem test_tblBuildLsb : let t := next (execTblBuildLsb crc32)
    tableEntry t.table 1 = 0x77073096 ∧ tableEntry t.table 255 = 0x2D02EF8D ∧ t.tblPoly = 0x04C11DB7 := by
  decide

/-- R157: `refin = 1` selects the LSB table; entries 1 and 128. -/
theorem test_tblBuild : let t := next (execTblBuild (configured 16 0x8005 0xFFFF 0 true true))
    tableEntry t.table 1 = 0xC0C1 ∧ tableEntry t.table 128 = 0xA001 ∧ t.tblShape = .lsb := by decide +kernel

/-- P5 line 27: TBL_READ returns the stale table. -/
theorem test_tblRead_stale :
    reply (execTblRead 1 { bound 64 0x42F0E1EBA9EA3693 0 0 false false with parWidth := 1, parPoly := 1 })
      = some (0, 0x42F0E1EBA9EA3693) := by decide

/-- 1.1: CRC-64/ECMA through the MSB table. -/
theorem test_tblMsb_crc64 :
    reply (execTblMsb (send 0x40000000 9 digits (bound 64 0x42F0E1EBA9EA3693 0 0 false false)))
      = some (0, 0x6C40DF5F0B497347) := by decide +kernel

/-- P4 line 24: an MSB table still serves TBL_MSB with `refin = 1`. -/
theorem test_tblMsb_refin :
    reply (execTblMsb (send 0x40000000 9 digits { bound 5 0x15 0x1F 0 false false with parRefin := true }))
      = some (0, 0x14) := by decide +kernel

/-- 1.1: CRC-32 through the LSB table. -/
theorem test_tblLsb_crc32 :
    reply (execTblLsb (send 0x41000000 9 digits (bound 32 0x04C11DB7 0xFFFFFFFF 0xFFFFFFFF true true)))
      = some (0, 0xCBF43926) := by decide +kernel

/-- P2 line 13: the wrong shape. -/
theorem test_tblLsb_shape : reply (execTblLsb (send 0x41000000 9 digits (bound 8 0xD5 0 0 false false))) = some (4, 0) := by
  decide

/-- P4 line 7: CRC-5/EPC, the widened path. -/
theorem test_crc_below_8 : reply (execCrc (send 0x42000000 9 digits (bound 5 0x09 0x09 0 false false))) = some (0, 0) := by
  decide +kernel

end Sys2Proof.Tests.Slice0
end

section
/-! SUPPORT. What a completed command leaves, field by field, and how the compared groups of registers (`activeSet`,
`stagingSet`, `tableSet`) pass through the named updates of the state. -/

namespace Sys2Proof.Machine

/-! ## The completion updates `answered` and `erred` -/

@[simp] theorem answered_lastCode (v : Word) (s : State) : (answered v s).lastCode = 0 := rfl
@[simp] theorem answered_err (v : Word) (s : State) : (answered v s).err = s.err := rfl
@[simp] theorem answered_response (v : Word) (s : State) :
    (answered v s).response = some { code := 0, result := v } := rfl
@[simp] theorem answered_paramsValid (v : Word) (s : State) : (answered v s).paramsValid = s.paramsValid := rfl
@[simp] theorem answered_parWidth (v : Word) (s : State) : (answered v s).parWidth = s.parWidth := rfl
@[simp] theorem answered_parPoly (v : Word) (s : State) : (answered v s).parPoly = s.parPoly := rfl
@[simp] theorem answered_table (v : Word) (s : State) : (answered v s).table = s.table := rfl
@[simp] theorem answered_tableValid (v : Word) (s : State) : (answered v s).tableValid = s.tableValid := rfl
@[simp] theorem answered_tblShape (v : Word) (s : State) : (answered v s).tblShape = s.tblShape := rfl
@[simp] theorem answered_tblWidth (v : Word) (s : State) : (answered v s).tblWidth = s.tblWidth := rfl
@[simp] theorem answered_tblPoly (v : Word) (s : State) : (answered v s).tblPoly = s.tblPoly := rfl
@[simp] theorem answered_activeSet (v : Word) (s : State) : activeSet (answered v s) = activeSet s := rfl
@[simp] theorem answered_stagingSet (v : Word) (s : State) : stagingSet (answered v s) = stagingSet s := rfl
@[simp] theorem answered_tableSet (v : Word) (s : State) : tableSet (answered v s) = tableSet s := rfl

@[simp] theorem erred_lastCode (c : Byte) (s : State) : (erred c s).lastCode = c := rfl
@[simp] theorem erred_err (c : Byte) (s : State) : (erred c s).err = true := rfl
@[simp] theorem erred_response (c : Byte) (s : State) :
    (erred c s).response = some { code := c, result := 0 } := rfl
@[simp] theorem erred_paramsValid (c : Byte) (s : State) : (erred c s).paramsValid = s.paramsValid := rfl
@[simp] theorem erred_activeSet (c : Byte) (s : State) : activeSet (erred c s) = activeSet s := rfl
@[simp] theorem erred_stagingSet (c : Byte) (s : State) : stagingSet (erred c s) = stagingSet s := rfl
@[simp] theorem erred_tableSet (c : Byte) (s : State) : tableSet (erred c s) = tableSet s := rfl

/-! ## The groups of registers under the other updates -/

@[simp] theorem restage_activeSet (s u : State) : activeSet (restage s u) = activeSet s := rfl
@[simp] theorem restage_tableSet (s u : State) : tableSet (restage s u) = tableSet s := rfl

@[simp] theorem withConstructed_stagingSet (s : State) : stagingSet (withConstructed s) = stagingSet s := rfl

@[simp] theorem tableInstall_activeSet (h : Shape) (w p : Word) (s : State) :
    activeSet (tableInstall h w p s) = activeSet s := (rfl)
@[simp] theorem tableInstall_stagingSet (h : Shape) (w p : Word) (s : State) :
    stagingSet (tableInstall h w p s) = stagingSet s := (rfl)
@[simp] theorem tableInstall_params (h : Shape) (w p : Word) (s : State) :
    params (tableInstall h w p s) = params s := (rfl)

end Sys2Proof.Machine
end

section
/-! SUPPORT. What each kind of register can become in one command, read off `Effect`, and the two ways a step goes on from
the host's next move: a command in flight, or a reset. -/

namespace Sys2Proof.Machine

/-! ## The step of a command and the step of a reset -/

/-- A step with a command in flight has completed it: with one of its effects and code 0, or with an error. -/
theorem step_command {s t : State} {c : Transaction} (hc : inFlight s = some c) (h : step s = .next t) :
    (∃ i v s', decode c.cmd = .ok i ∧ Effect i s s' ∧ t = answered v s') ∨
      ∃ k, k ≠ .ok ∧ k ≠ .unknownAlgorithm ∧ t = erred (codeNumber k) s := by
  obtain ⟨rest, hhost⟩ := inFlight_eq_some.mp hc
  rcases step_effect h with ⟨hidle, -⟩ | ⟨m, rest', hm, hreset, -⟩ | ⟨c', hc', hstep⟩
  · simp [hhost] at hidle
  · obtain ⟨rfl, -⟩ := List.cons.inj (hhost.symm.trans hm)
    simp at hreset
  · obtain rfl : c = c' := Option.some.inj (hc.symm.trans hc')
    exact hstep

/-- A reset move leaves the reset state, with the host's later moves. -/
theorem step_reset {s : State} {m : HostMove} {rest : List HostMove} (hs : s.host = m :: rest)
    (hm : m = .reset ∨ ∃ c, m = .resetDuring c) : step s = .next { State.reset with host := rest } := by
  rcases hm with rfl | ⟨c, rfl⟩ <;> simp [step, hs, takeReset]

/-- The step runs `exec` of the command that the delivered word decodes to (R33, R101). -/
theorem step_eq_exec {s : State} {t : Transaction} {i : Instr} (hf : inFlight s = some t)
    (hd : deliverable t = true) (hi : decode t.cmd = .ok i) : step s = exec i s := by
  obtain ⟨rest, hs⟩ := inFlight_eq_some.mp hf
  simp [step, hs, hd, hi]

/-! ## What an effect does to each kind of register -/

section
variable {i : Instr} {s s' : State}

/-- R40: the active set changes by CONFIGURE and BIND only. -/
theorem Effect.activeSet_cases (e : Effect i s s') :
    activeSet s' = activeSet s ∨ i = .configure ∨ i = .bind := by
  cases e with
  | none => exact .inl rfl
  | staged => exact .inl rfl
  | statusWritten => exact .inl rfl
  | constructed hi => exact .inr (.inl hi)
  | bound hi => exact .inr (.inr hi)
  | built => exact .inl (tableInstall_activeSet ..)

/-- R42: no command clears PARAMS_VALID. -/
theorem Effect.paramsValid_mono (e : Effect i s s') (h : s.paramsValid = true) : s'.paramsValid = true := by
  cases e with
  | constructed => exact withConstructed_paramsValid s
  | bound => exact (tableInstall_paramsValid ..).trans (withConstructed_paramsValid s)
  | built => exact (tableInstall_paramsValid ..).trans h
  | none | staged | statusWritten => exact h

/-- R36 to R38: the staging registers change by a WRCSR to one of their five numbers only. -/
theorem Effect.stagingSet_cases (e : Effect i s s') :
    stagingSet s' = stagingSet s ∨ ∃ n : BitVec 12, i = .wrcsr n ∧ 1 ≤ n.toNat ∧ n.toNat ≤ 5 := by
  cases e with
  | staged n hi hn => exact .inr ⟨n, hi, hn⟩
  | bound => exact .inl ((tableInstall_stagingSet ..).trans (withConstructed_stagingSet s))
  | built => exact .inl (tableInstall_stagingSet ..)
  | none | statusWritten | constructed => exact .inl rfl

/-- R48: before its completion a command changes ERR by a WRCSR to STATUS only. -/
theorem Effect.err_cases (e : Effect i s s') :
    s'.err = s.err ∨ (i = .wrcsr 0x020 ∧ s'.err = errAfterStatusWrite (opa s) s.err) := by
  cases e with
  | statusWritten hi => exact .inr ⟨hi, rfl⟩
  | bound => exact .inl ((tableInstall_err ..).trans (withConstructed_err s))
  | built => exact .inl (tableInstall_err ..)
  | none | staged | constructed => exact .inl rfl

/-- R44, R154: the table and its tag change by BIND and the builds only, which install the table of the active width and
polynomial whole. -/
theorem Effect.tableSet_cases (e : Effect i s s') :
    tableSet s' = tableSet s ∨
      ((i = .bind ∨ i = .tblBuildMsb ∨ i = .tblBuildLsb ∨ i = .tblBuild) ∧
        ∃ (shape : Shape) (u : State), s' = tableInstall shape u.parWidth u.parPoly u) := by
  cases e with
  | bound hi => exact .inr ⟨.inl hi, shapeOfRefin s.cfgRefin, withConstructed s, rfl⟩
  | built shape hi =>
    refine .inr ⟨.inr ?_, shape, s, rfl⟩
    rcases hi with ⟨hi, -⟩ | ⟨hi, -⟩ | ⟨hi, -⟩ <;> simp [hi]
  | none | staged | statusWritten | constructed => exact .inl rfl

end

/-! ## The invariant -/

/-- The part of the invariant that speaks of the parameter set and the table. -/
def ConfigInv (s : State) : Prop := ParamsInv s ∧ UnconfiguredInv s ∧ TableInv s ∧ NoTableInv s

theorem inv_iff (s : State) : Inv s ↔ ConfigInv s ∧ StatusInv s ∧ ResponseInv s := by
  simp only [Inv, ConfigInv, and_assoc]

/-- That part depends on the active set and the table with its tag alone. -/
theorem ConfigInv.congr {s t : State} (ha : activeSet t = activeSet s) (ht : tableSet t = tableSet s)
    (h : ConfigInv s) : ConfigInv t := by
  simp only [activeSet, tableSet, Prod.mk.injEq] at ha ht
  obtain ⟨hv, hw, hp, hi, hx, hri, hro⟩ := ha
  obtain ⟨hT, hTv, hTs, hTw, hTp⟩ := ht
  simpa only [ConfigInv, ParamsInv, UnconfiguredInv, TableInv, NoTableInv, params, hv, hw, hp, hi, hx, hri, hro, hT,
    hTv, hTs, hTw, hTp] using h

/-- R43: a construction with a legal width gives a legal parameter set, whatever the staged values are. -/
theorem legalParams_withConstructed {s : State} (hw : LegalWidth s.cfgWidth.toNat) :
    LegalParams (params (withConstructed s)) :=
  ⟨hw, and_mask_lt _ hw.2, and_mask_lt _ hw.2, and_mask_lt _ hw.2⟩

theorem ConfigInv.withConstructed {s : State} (h : ConfigInv s) (hw : LegalWidth s.cfgWidth.toNat) :
    ConfigInv (withConstructed s) := by
  obtain ⟨-, -, htable, hnoTable⟩ := h
  exact ⟨fun _ => legalParams_withConstructed hw, fun hv => by simp at hv, htable, hnoTable⟩

/-- R45: installing the table of the active width and polynomial, once they are constructed. -/
theorem ConfigInv.tableInstall {s : State} (h : ConfigInv s) (hv : s.paramsValid = true) (shape : Shape) :
    ConfigInv (tableInstall shape s.parWidth s.parPoly s) := by
  obtain ⟨hparams, -, -, -⟩ := h
  obtain ⟨hwidth, hpoly, -, -⟩ := hparams hv
  refine ⟨fun _ => ?_, fun hv' => ?_, fun _ => ?_, fun hT => ?_⟩
  · rw [tableInstall_params]; exact hparams hv
  · simp [hv] at hv'
  · simp only [tableInstall_tblWidth, tableInstall_tblPoly, tableInstall_table, tableInstall_tblShape]
    exact ⟨hwidth, hpoly, trivial⟩
  · simp at hT

theorem Effect.keeps_configInv {i : Instr} {s s' : State} (e : Effect i s s') (h : ConfigInv s) : ConfigInv s' := by
  cases e with
  | none => exact h
  | staged n hi hn u => exact h.congr (restage_activeSet s u) (restage_tableSet s u)
  | statusWritten => exact h.congr rfl rfl
  | constructed hi hw => exact h.withConstructed hw
  | bound hi hw => exact (h.withConstructed hw).tableInstall (withConstructed_paramsValid s) _
  | built shape hi hp => exact h.tableInstall hp shape

theorem statusInv_answered (v : Word) (s : State) : StatusInv (answered v s) := by
  simp [StatusInv]

theorem responseInv_answered (v : Word) (s : State) : ResponseInv (answered v s) := by
  simp [ResponseInv]

theorem statusInv_erred {c : Byte} (hc : c.toNat ≤ 4) (s : State) : StatusInv (erred c s) := by
  simp [StatusInv, hc]

theorem responseInv_erred (c : Byte) (s : State) : ResponseInv (erred c s) := by
  simp [ResponseInv]

/-- R229: a completion with code 0 of a state whose parameters and table are in order meets the invariant. -/
theorem ConfigInv.inv_answered {s : State} (h : ConfigInv s) (v : Word) : Inv (answered v s) :=
  (inv_iff _).mpr ⟨h.congr (answered_activeSet v s) (answered_tableSet v s), statusInv_answered v s,
    responseInv_answered v s⟩

/-- R228: so does an error with a code that the core raises. -/
theorem ConfigInv.inv_erred {s : State} (h : ConfigInv s) {c : Byte} (hc : c.toNat ≤ 4) : Inv (erred c s) :=
  (inv_iff _).mpr ⟨h.congr (erred_activeSet c s) (erred_tableSet c s), statusInv_erred hc s, responseInv_erred c s⟩

theorem codeNumber_le_four {c : Code} (hc : c ≠ .unknownAlgorithm) : (codeNumber c).toNat ≤ 4 := by
  cases c <;> simp [codeNumber] at hc ⊢

/-- The reset state meets the invariant, whatever the host sends next. -/
theorem inv_reset_withHost (moves : List HostMove) : Inv { State.reset with host := moves } := by
  simp [Inv, ParamsInv, UnconfiguredInv, TableInv, NoTableInv, StatusInv, ResponseInv, State.reset, CoreState.reset]

/-- Settles O46, by the cases of a step: idling, a reset, and a command, completed after one of its effects or with an
error. -/
theorem everyStepKeepsTheInvariant : Obligations.EveryStepKeepsTheInvariant := by
  intro s t hs h
  have hconfig : ConfigInv s := ((inv_iff s).mp hs).1
  rcases step_effect h with ⟨-, rfl⟩ | ⟨m, rest, -, -, rfl⟩ | ⟨c, -, hcmd⟩
  · exact hs
  · exact inv_reset_withHost rest
  · rcases hcmd with ⟨i, v, s', -, e, rfl⟩ | ⟨k, -, hk, rfl⟩
    · exact (e.keeps_configInv hconfig).inv_answered v
    · exact hconfig.inv_erred (codeNumber_le_four hk)

/-! ## Who writes which registers -/

/-- Settles O48: an error changes no register of the active set, and of the effects only a construction does. -/
theorem onlyConstructionWritesTheActiveSet : Obligations.OnlyConstructionWritesTheActiveSet := by
  intro s t c hc h hne
  rcases step_command hc h with ⟨i, v, s', hi, e, rfl⟩ | ⟨k, -, -, rfl⟩
  · rcases e.activeSet_cases with heq | rfl | rfl
    · exact absurd ((answered_activeSet v s').trans heq) hne
    · exact ⟨.inl hi, rfl⟩
    · exact ⟨.inr hi, rfl⟩
  · exact absurd (erred_activeSet _ s) hne

/-- Settles O52: of the effects only a staging write changes a staging register. -/
theorem onlyWrcsrWritesTheStagingSet : Obligations.OnlyWrcsrWritesTheStagingSet := by
  intro s t c hc h hne
  rcases step_command hc h with ⟨i, v, s', hi, e, rfl⟩ | ⟨k, -, -, rfl⟩
  · rcases e.stagingSet_cases with heq | ⟨n, rfl, hn⟩
    · exact absurd ((answered_stagingSet v s').trans heq) hne
    · exact ⟨n, hi, hn⟩
  · exact absurd (erred_stagingSet _ s) hne

/-- Settles O50: of the effects only an installed table changes the table or its tag, and it is the table of the active
width and polynomial. -/
theorem onlyBuildsWriteTheTable : Obligations.OnlyBuildsWriteTheTable := by
  intro s t c hc h hne
  rcases step_command hc h with ⟨i, v, s', hi, e, rfl⟩ | ⟨k, -, -, rfl⟩
  · rcases e.tableSet_cases with heq | ⟨hbuild, shape, u, rfl⟩
    · exact absurd ((answered_tableSet v s').trans heq) hne
    · refine ⟨by simpa [hi] using hbuild, rfl, ?_⟩
      simp
  · exact absurd (erred_tableSet _ s) hne

end Sys2Proof.Machine
end

section
/-! SUPPORT. PARAMS_VALID, ERR and the fields of STATUS (10_state.md R42, R47, R48), and what RDCSR reads (R36, R46). -/

namespace Sys2Proof.Machine

/-! ## PARAMS_VALID (R42) -/

theorem exec_configure_cases (s : State) :
    (¬ LegalWidth s.cfgWidth.toNat ∧ exec .configure s = .next (erred 1 s)) ∨
      (LegalWidth s.cfgWidth.toNat ∧ exec .configure s = .next (answered 0 (withConstructed s))) := by
  rcases constructParams_cases s with ⟨hw, h⟩ | ⟨hw, h⟩
  · exact .inl ⟨hw, by simp [exec, execConfigure, h, raise_eq, codeNumber]⟩
  · exact .inr ⟨hw, by simp [exec, execConfigure, h, respond_eq]⟩

theorem exec_bind_cases (s : State) :
    (¬ LegalWidth s.cfgWidth.toNat ∧ exec .bind s = .next (erred 1 s)) ∨
      (LegalWidth s.cfgWidth.toNat ∧ exec .bind s = .next (answered 0 (tableInstall (shapeOfRefin s.cfgRefin)
        s.cfgWidth (withConstructed s).parPoly (withConstructed s)))) := by
  rcases constructParams_cases s with ⟨hw, h⟩ | ⟨hw, h⟩
  · exact .inl ⟨hw, by simp [exec, execBind, h, raise_eq, codeNumber]⟩
  · exact .inr ⟨hw, by simp [exec, execBind, h, respond_eq]⟩

/-- R223: the nine commands that compute with or build from the parameter set need it. -/
theorem exec_of_notConfigured {s : State} (hs : s.paramsValid = false) {i : Instr}
    (hi : i ∈ [Instr.refMsb, .refLsb, .refCrc, .tblBuildMsb, .tblBuildLsb, .tblBuild, .tblMsb, .tblLsb, .crc]) :
    exec i s = .next (erred 3 s) := by
  have hraise : exec i s = raise .notConfigured s := by
    simp only [List.mem_cons, List.not_mem_nil, or_false] at hi
    rcases hi with rfl | rfl | rfl | rfl | rfl | rfl | rfl | rfl | rfl <;>
      simp [exec, execRefMsb, execRefLsb, execRefCrc, execTblBuildMsb, execTblBuildLsb, execTblBuild, execTblMsb,
        execTblLsb, execCrc, hs]
  exact hraise.trans (raise_eq _ (by decide) s)

theorem exec_construction_sets_paramsValid {s t : State} (h : exec .configure s = .next t ∨ exec .bind s = .next t)
    (hcode : t.lastCode = 0) : t.paramsValid = true := by
  rcases h with h | h
  · rcases exec_configure_cases s with ⟨-, he⟩ | ⟨-, he⟩ <;> cases h.symm.trans he
    · simp at hcode
    · simp
  · rcases exec_bind_cases s with ⟨-, he⟩ | ⟨-, he⟩ <;> cases h.symm.trans he
    · simp at hcode
    · simp

/-- Settles O49: no command's effect clears PARAMS_VALID, so a step that does has taken a reset. -/
theorem paramsValidLifecycle : Obligations.ParamsValidLifecycle := by
  refine ⟨fun s t h hs ht => ?_, fun s t m rest hs hm h => ?_,
    fun s t => exec_construction_sets_paramsValid, fun s hs i hi => exec_of_notConfigured hs hi⟩
  · rcases step_effect h with ⟨-, rfl⟩ | ⟨m, rest, hm, hreset, -⟩ | ⟨c, -, hcmd⟩
    · simp [hs] at ht
    · exact ⟨m, rest, hm, hreset⟩
    · rcases hcmd with ⟨i, v, s', -, e, rfl⟩ | ⟨k, -, -, rfl⟩
      · simp [e.paramsValid_mono hs] at ht
      · simp [hs] at ht
  · cases h.symm.trans (step_reset hs hm)
    rfl

/-! ## ERR (R48) -/

theorem exec_wrcsr_status (s : State) :
    exec (.wrcsr 0x020) s = .next (answered 0 { s with err := errAfterStatusWrite (opa s) s.err }) := rfl

theorem errAfterStatusWrite_eq (v : Word) (err : Bool) : errAfterStatusWrite v err = (err && !v.getLsbD 3) := by
  unfold errAfterStatusWrite
  cases v.getLsbD 3 <;> cases err <;> rfl

/-- Settles O51: of the effects only a write of STATUS changes ERR, and it clears it by bit 3 of the operand. -/
theorem errIsSticky : Obligations.ErrIsSticky := by
  refine ⟨fun s t c hc h hcode => ?_, fun s t h hs ht => ?_, fun s t h hbit => ?_, fun s t m rest hs hm h => ?_⟩
  · rcases step_command hc h with ⟨i, v, s', -, -, rfl⟩ | ⟨k, -, -, rfl⟩
    · simp at hcode
    · rfl
  · rcases step_effect h with ⟨-, rfl⟩ | ⟨m, rest, hm, hreset, -⟩ | ⟨c, hc, hcmd⟩
    · simp [hs] at ht
    · exact .inl ⟨m, rest, hm, hreset⟩
    · rcases hcmd with ⟨i, v, s', hi, e, rfl⟩ | ⟨k, -, -, rfl⟩
      · rcases e.err_cases with herr | ⟨rfl, herr⟩
        · simp [herr, hs] at ht
        · refine .inr ⟨c, hc, hi, ?_⟩
          simpa [herr, errAfterStatusWrite_eq, hs, opa_of_inFlight hc] using ht
      · simp at ht
  · cases h.symm.trans (exec_wrcsr_status s)
    simp [errAfterStatusWrite_eq, hbit]
  · cases h.symm.trans (step_reset hs hm)
    rfl

/-! ## What RDCSR reads -/

/-- The number of a register (R36, first column). -/
def csrNumber : Csr → BitVec 12
  | .id => 0x000
  | .cfgWidth => 0x001
  | .cfgPoly => 0x002
  | .cfgInit => 0x003
  | .cfgXorout => 0x004
  | .cfgFlags => 0x005
  | .parWidth => 0x011
  | .parPoly => 0x012
  | .parInit => 0x013
  | .parXorout => 0x014
  | .parFlags => 0x015
  | .status => 0x020
  | .tblWidth => 0x021
  | .tblPoly => 0x022
  | .tblEntryBytes => 0x023

@[simp] theorem csrNamed_csrNumber (r : Csr) : csrNamed (csrNumber r) = some r := by
  cases r <;> rfl

theorem csrNamed_eq_some {n : BitVec 12} {r : Csr} : csrNamed n = some r ↔ n = csrNumber r := by
  refine ⟨fun h => ?_, fun h => h ▸ csrNamed_csrNumber r⟩
  unfold csrNamed at h
  split at h <;> cases h <;> rfl

theorem exec_rdcsr_csrNumber (r : Csr) (s : State) :
    exec (.rdcsr (csrNumber r)) s = .next (answered (readCsr r s) s) := by
  simp [exec, execRdcsr, respond_eq]

theorem exec_rdcsr_unassigned {n : BitVec 12} (h : csrNamed n = none) (s : State) :
    exec (.rdcsr n) s = .next (erred 2 s) := by
  simp [exec, execRdcsr, h, raise_eq, codeNumber]

/-- R36: no number of the list is unassigned. -/
theorem csrNamed_ne_none_of_mem {n : BitVec 12} (h : n.toNat ∈ [0x000, 0x001, 0x002, 0x003, 0x004, 0x005, 0x011, 0x012,
    0x013, 0x014, 0x015, 0x020, 0x021, 0x022, 0x023]) : csrNamed n ≠ none := by
  have hn : n = BitVec.ofNat 12 n.toNat := by simp
  have hall : ∀ k ∈ [0x000, 0x001, 0x002, 0x003, 0x004, 0x005, 0x011, 0x012, 0x013, 0x014, 0x015, 0x020, 0x021, 0x022,
    0x023], csrNamed (BitVec.ofNat 12 k) ≠ none := by decide
  exact hn ▸ hall _ h

/-- R36, last column. -/
theorem readCsr_reset (r : Csr) : readCsr r State.reset = if r = .id then 0x5059435243000007 else 0 := by
  cases r <;> rfl

/-- Settles O10, one register at a time. -/
theorem resetReadings : Obligations.ResetReadings := by
  intro n
  cases hn : csrNamed n with
  | some r =>
    obtain rfl := csrNamed_eq_some.mp hn
    rw [exec_rdcsr_csrNumber, readCsr_reset]
    cases r <;> rfl
  | none =>
    have hmem := mt csrNamed_ne_none_of_mem (not_not.mpr hn)
    rw [List.mem_cons, not_or] at hmem
    have h0 : n ≠ 0x000 := fun h => hmem.1 (by simp [h])
    rw [exec_rdcsr_unassigned hn, if_neg h0, if_neg hmem.2]

/-! ### STATUS (R47) -/

theorem bitWord_getLsbD (b : Bool) (j : Nat) : (bitWord b).getLsbD j = (b && decide (j = 0)) := by
  cases b <;> simp [bitWord, BitVec.getLsbD_one]

theorem decide_eq_lsb (h : Shape) : decide (h = .lsb) = shapeBit h := by
  cases h <;> rfl

theorem bitWord_shiftLeft_getLsbD (b : Bool) {k j : Nat} (hj : j < 64) :
    (bitWord b <<< k).getLsbD j = (b && decide (j = k)) := by
  have hbit : (!decide (j < k) && decide (j - k = 0)) = decide (j = k) := by
    rw [Bool.eq_iff_iff]; simp; omega
  rw [BitVec.getLsbD_shiftLeft, bitWord_getLsbD, ← hbit]
  cases b <;> simp [hj]

/-- Bits 7:0 of STATUS: the four flags, and zeros. -/
theorem statusWord_getLsbD_low (s : State) {j : Nat} (hj : j < 8) : (statusWord s).getLsbD j =
    ((s.paramsValid && decide (j = 0)) || (s.tableValid && decide (j = 1)) ||
      (shapeBit s.tblShape && decide (j = 2)) || (s.err && decide (j = 3))) := by
  have hj' : j < 64 := by omega
  simp only [statusWord, BitVec.getLsbD_or, bitWord_shiftLeft_getLsbD _ hj', bitWord_getLsbD,
    BitVec.getLsbD_shiftLeft, hj, decide_true, Bool.not_true, Bool.and_false, Bool.false_and, Bool.or_false]

/-- From bit 8 upward STATUS is LAST_CODE. -/
theorem statusWord_getLsbD_high (s : State) (j : Nat) (hj : j < 56) :
    (statusWord s).getLsbD (8 + j) = s.lastCode.getLsbD j := by
  have hj' : 8 + j < 64 := by omega
  have hne : ∀ k, k < 8 → decide (8 + j = k) = false := fun k hk => decide_eq_false (by omega)
  simp only [statusWord, BitVec.getLsbD_or, bitWord_shiftLeft_getLsbD _ hj', bitWord_getLsbD,
    BitVec.getLsbD_shiftLeft, BitVec.getLsbD_setWidth]
  simp [hne, hj']
  omega

/-- Settles O13, from the bits of the word that RDCSR reads. -/
theorem statusFields : Obligations.StatusFields := by
  refine ⟨fun s => ⟨⟨statusWord s, exec_rdcsr_csrNumber .status s, ?_, ?_, ?_, ?_, ?_, ?_, ?_⟩, ?_⟩,
    exec_rdcsr_csrNumber .status State.reset⟩
  · rw [statusWord_getLsbD_low s (by decide)]; simp
  · rw [statusWord_getLsbD_low s (by decide)]; simp
  · rw [statusWord_getLsbD_low s (by decide), decide_eq_lsb]; simp
  · rw [statusWord_getLsbD_low s (by decide)]; simp
  · refine BitVec.eq_of_getLsbD_eq fun j hj => ?_
    rw [BitVec.getLsbD_extractLsb', statusWord_getLsbD_low s (by omega)]
    simp
    omega
  · refine BitVec.eq_of_getLsbD_eq fun j hj => ?_
    rw [BitVec.getLsbD_extractLsb', statusWord_getLsbD_high s j (by omega)]
    simp [hj]
  · refine BitVec.eq_of_getLsbD_eq fun j hj => ?_
    rw [BitVec.getLsbD_extractLsb', show 16 + j = 8 + (8 + j) by omega, statusWord_getLsbD_high s _ (by omega),
      BitVec.getLsbD_of_ge _ _ (by omega)]
    simp
  · rw [exec_wrcsr_status, errAfterStatusWrite_eq]

/-! ### TBL_ENTRY_BYTES (R46) -/

/-- `ceil(w / 8)` as the register reads it, for a width of the table's tag. -/
theorem entryBytes_toNat {w : Word} (hw : w.toNat ≤ 64) :
    (BitVec.ofNat 64 ((w.toNat + 7) >>> 3)).toNat = (w.toNat + 7) / 8 := by
  rw [BitVec.toNat_ofNat, Nat.shiftRight_eq_div_pow]
  omega

/-- R45, R46: the tag's width is 0 until a table is built, and then legal. -/
theorem tblWidth_of_inv {s : State} (h : Inv s) :
    (s.tableValid = false ∧ s.tblWidth.toNat = 0) ∨ (s.tableValid = true ∧ LegalWidth s.tblWidth.toNat) := by
  obtain ⟨-, -, htable, hnoTable, -⟩ := h
  cases hv : s.tableValid with
  | false => exact .inl ⟨rfl, by rw [(hnoTable hv).1]; rfl⟩
  | true => exact .inr ⟨rfl, (htable hv).1⟩

/-- Settles O60, from the width of the tag before and after a build. -/
theorem entryBytesReading : Obligations.EntryBytesReading := by
  intro s hs
  have hcases := tblWidth_of_inv hs
  have hv := entryBytes_toNat (w := s.tblWidth) (by rcases hcases with ⟨-, h⟩ | ⟨-, -, h⟩ <;> omega)
  refine ⟨_, exec_rdcsr_csrNumber .tblEntryBytes s, ?_⟩
  simp only [readCsr]
  rcases hcases with ⟨hT, hw⟩ | ⟨hT, hlo, hhi⟩
  · refine ⟨by omega, by omega, fun _ => BitVec.eq_of_toNat_eq ?_, fun h => ?_⟩
    · rw [hv, hw]; rfl
    · simp [hT] at h
  · exact ⟨by omega, by omega, fun h => by simp [hT] at h, fun _ => by omega⟩

end Sys2Proof.Machine
end

section
/-! SUPPORT. Which command a delivered word is, and which transactions are delivered (10_state.md R31, R51;
30_encoding.md R99 to R105). -/

namespace Sys2Proof.Machine

/-! ## The message-length duty (R31, R51) -/

theorem opcodeOf_toNat (c : CmdWord) : (opcodeOf c).toNat = c.toNat / 2 ^ 24 := by
  have := c.isLt
  simp only [opcodeOf, BitVec.extractLsb'_toNat, Nat.shiftRight_eq_div_pow]
  omega

theorem formatOfOpcode_eq_m (o : BitVec 8) :
    formatOfOpcode o = some .m ↔ o.toNat ∈ [0x20, 0x21, 0x22, 0x40, 0x41, 0x42] := by
  revert o; decide

theorem deliverable_iff (t : Transaction) : deliverable t = true ↔
    if t.cmd.toNat / 2 ^ 24 ∈ [0x20, 0x21, 0x22, 0x40, 0x41, 0x42] then t.msg.length = t.opa.toNat
    else t.msg = [] := by
  rw [← opcodeOf_toNat, deliverable]
  split
  · next h => rw [if_pos ((formatOfOpcode_eq_m _).mp h)]; simp
  · next h => rw [if_neg (mt (formatOfOpcode_eq_m _).mpr h)]; simp

/-- A command has a next state, in every state (R261). -/
theorem exec_ne_refused (i : Instr) (s : State) (r : Refusal) : exec i s ≠ .refused r := by
  rcases exec_effect i s with ⟨v, s', he, -⟩ | ⟨c, -, -, he⟩ <;> simp [he]

theorem step_refused_iff (s : State) :
    (∃ r, step s = .refused r) ↔ ∃ t, inFlight s = some t ∧ ¬ deliverable t = true := by
  constructor
  · rintro ⟨r, h⟩
    rcases step_cases s with ⟨-, e⟩ | ⟨-, e⟩ | ⟨t, hf, hd, -⟩ | ⟨t, i, -, -, -, e⟩ | ⟨t, why, -, -, -, e⟩
    · simp [e] at h
    · simp [e] at h
    · exact ⟨t, hf, by simp [hd]⟩
    · exact absurd (e ▸ h) (exec_ne_refused i s r)
    · simp [e, raise] at h
  · rintro ⟨t, hf, hd⟩
    obtain ⟨rest, hs⟩ := inFlight_eq_some.mp hf
    exact ⟨.notATransaction, by simp [step, hs, hd]⟩

/-- Settles O7: only an undeliverable transaction in flight is refused, and `deliverable` is the host's duty. -/
theorem onlyABrokenMessageDutyHasNoStep : Obligations.OnlyABrokenMessageDutyHasNoStep := by
  intro s
  simp only [step_refused_iff, deliverable_iff]

/-! ## The command of an encoded word (R99, R105) -/

/-- A word of an opcode and a field: the bits of the field come back. -/
theorem extractLsb'_word (o : BitVec 8) (f : BitVec 24) {k n : Nat} (h : k + n ≤ 24) :
    ((o.setWidth 32 <<< 24) ||| f.setWidth 32).extractLsb' k n = f.extractLsb' k n := by
  refine BitVec.eq_of_getLsbD_eq fun j hj => ?_
  have h1 : k + j < 24 := by omega
  have h2 : k + j < 32 := by omega
  simp [hj, h1, h2]

/-- A field of `n` bits is the low `n` bits of the 24-bit operand field (R105). -/
theorem extractLsb'_low_setWidth {n : Nat} (x : BitVec n) (hn : n ≤ 24) : (x.setWidth 24).extractLsb' 0 n = x := by
  refine BitVec.eq_of_getLsbD_eq fun j hj => ?_
  have : j < 24 := by omega
  simp [hj, this]

/-- The bits of the operand field above a field of `n` bits are zero (R105). -/
theorem extractLsb'_high_setWidth {n : Nat} (x : BitVec n) (m : Nat) : (x.setWidth 24).extractLsb' n m = 0#m := by
  refine BitVec.eq_of_getLsbD_eq fun j hj => ?_
  simp

theorem decodeC_word (o : BitVec 8) (csr : BitVec 12) (mk : BitVec 12 → Instr) :
    decodeC ((o.setWidth 32 <<< 24) ||| (csr.setWidth 24).setWidth 32) mk = .ok (mk csr) := by
  rw [decodeC, extractLsb'_word o _ (by decide), extractLsb'_word o _ (by decide), extractLsb'_high_setWidth,
    extractLsb'_low_setWidth csr (by decide), if_pos rfl]

theorem decodeI_word (o : BitVec 8) (idx : BitVec 8) (mk : BitVec 8 → Instr) :
    decodeI ((o.setWidth 32 <<< 24) ||| (idx.setWidth 24).setWidth 32) mk = .ok (mk idx) := by
  rw [decodeI, extractLsb'_word o _ (by decide), extractLsb'_word o _ (by decide), extractLsb'_high_setWidth,
    extractLsb'_low_setWidth idx (by decide), if_pos rfl]

theorem decodeW_word (o : BitVec 8) {rw : BitVec 7} (mk : BitVec 7 → Instr) (h : rw.toNat ≤ Config.maxWidth) :
    decodeW ((o.setWidth 32 <<< 24) ||| (rw.setWidth 24).setWidth 32) mk = .ok (mk rw) := by
  rw [decodeW, extractLsb'_word o _ (by decide), extractLsb'_word o _ (by decide), extractLsb'_high_setWidth,
    extractLsb'_low_setWidth rw (by decide), if_pos rfl, if_pos h]

/-! The rows of the opcode map whose command carries a field (R99). -/

theorem decode_rdcsr_row {c : CmdWord} (h : opcodeOf c = 0x01#8) : decode c = decodeC c .rdcsr := by
  simp [decode, h]

theorem decode_wrcsr_row {c : CmdWord} (h : opcodeOf c = 0x02#8) : decode c = decodeC c .wrcsr := by
  simp [decode, h]

theorem decode_reflect_row {c : CmdWord} (h : opcodeOf c = 0x10#8) : decode c = decodeW c .reflect := by
  simp [decode, h]

theorem decode_tblRead_row {c : CmdWord} (h : opcodeOf c = 0x33#8) : decode c = decodeI c .tblRead := by
  simp [decode, h]

/-- R99, R105: the opcode of an encoded command. -/
theorem opcodeOf_encode (i : Instr) : opcodeOf (encode i) = opcode i :=
  Laws.OpcodeRow.opcodeOf_word (opcode i) (operandField i)

/-- R101, R105: a well-formed command comes back from its word. -/
theorem decode_encode {i : Instr} (hi : WellFormed i = true) : decode (encode i) = .ok i := by
  cases i with
  | rdcsr csr => exact (decode_rdcsr_row (opcodeOf_encode _)).trans (decodeC_word 0x01#8 csr .rdcsr)
  | wrcsr csr => exact (decode_wrcsr_row (opcodeOf_encode _)).trans (decodeC_word 0x02#8 csr .wrcsr)
  | reflect rw =>
    exact (decode_reflect_row (opcodeOf_encode _)).trans (decodeW_word 0x10#8 .reflect (of_decide_eq_true hi))
  | tblRead idx => exact (decode_tblRead_row (opcodeOf_encode _)).trans (decodeI_word 0x33#8 idx .tblRead)
  | nop | configure | bind | refMsb | refLsb | refCrc | tblBuildMsb | tblBuildLsb | tblBuild | tblMsb | tblLsb | crc =>
    decide

/-- The empty message with `OPA = 0` is one that every word admits (R96; log entry 7). -/
theorem deliverable_empty (c : CmdWord) : deliverable { cmd := c, opa := 0, msg := [] } = true := by
  simp [deliverable_iff]

theorem inFlight_withFetchWord_encode (s : State) (i : Instr) :
    inFlight (s.withFetchWord 32 (encode i).toNat) = some { cmd := encode i, opa := 0, msg := [] } := by
  have hword : BitVec.ofNat 32 ((encode i).toNat % 2 ^ 32) = encode i := by
    rw [Nat.mod_eq_of_lt (encode i).isLt, BitVec.ofNat_toNat, BitVec.setWidth_eq]
  rw [withFetchWord_eq, hword, inFlight]

/-- Settles O5: the second part is the first one for the word put in front, which decodes to its command. -/
theorem stepRunsTheDecodedCommand : Obligations.StepRunsTheDecodedCommand :=
  ⟨fun _ _ _ => step_eq_exec, fun s i hi =>
    step_eq_exec (inFlight_withFetchWord_encode s i) (deliverable_empty _) (decode_encode hi)⟩

end Sys2Proof.Machine
end

section
/-! SUPPORT. What a step does to the host's moves (20_memory.md R80, R258), and the commands that compute or read: their
frame and the repetition of their answers (R79). -/

namespace Sys2Proof.Machine

/-! ## The host's moves (R80, R252, R258) -/

@[simp] theorem answered_host (v : Word) (s : State) : (answered v s).host = s.host.tail := rfl
@[simp] theorem erred_host (c : Byte) (s : State) : (erred c s).host = s.host.tail := rfl

/-- Before its completion a command takes no move. -/
theorem Effect.host_eq {i : Instr} {s s' : State} (e : Effect i s s') : s'.host = s.host := by
  cases e with
  | bound => exact (tableInstall_host ..).trans (withConstructed_host s)
  | built => exact tableInstall_host ..
  | none | staged | statusWritten | constructed => rfl

theorem step_host {s t : State} (h : step s = .next t) : t.host = s.host.tail := by
  rcases step_effect h with ⟨hidle, rfl⟩ | ⟨m, rest, hm, -, rfl⟩ | ⟨c, -, hcmd⟩
  · rw [hidle, List.tail_nil]
  · rw [hm, List.tail_cons]
  · rcases hcmd with ⟨i, v, s', -, e, rfl⟩ | ⟨k, -, -, rfl⟩
    · rw [answered_host, e.host_eq]
    · exact erred_host _ s

theorem step_idle {s : State} (h : s.host = []) : step s = .next s := by
  rw [step, h, stayIdle_eq]

/-- Settles O8, by the cases of a step: idling, a reset, and a command, whose completion takes its move. -/
theorem hostMovesAreTakenInOrder : Obligations.HostMovesAreTakenInOrder :=
  ⟨fun _ _ => step_host, fun _ => step_idle⟩

/-! ## The frame of the commands that compute or read -/

/-- Only the six commands that write, construct or build change the state before their completion. -/
theorem Effect.eq_self_or_writes {i : Instr} {s s' : State} (e : Effect i s s') :
    s' = s ∨ (∃ n, i = .wrcsr n) ∨ i ∈ [Instr.configure, .bind, .tblBuildMsb, .tblBuildLsb, .tblBuild] := by
  cases e with
  | none => exact .inl rfl
  | staged n hi => exact .inr (.inl ⟨n, hi⟩)
  | statusWritten hi => exact .inr (.inl ⟨_, hi⟩)
  | constructed hi | bound hi => exact .inr (.inr (by simp [hi]))
  | built shape hi => exact .inr (.inr (by rcases hi with ⟨hi, -⟩ | ⟨hi, -⟩ | ⟨hi, -⟩ <;> simp [hi]))

/-- Every other command is a completion and nothing else: it answers, or raises a code that is not 0. -/
theorem exec_of_not_writes {i : Instr} (hw : ∀ n, i ≠ .wrcsr n)
    (hi : i ∉ [Instr.configure, .bind, .tblBuildMsb, .tblBuildLsb, .tblBuild]) {s t : State} (h : exec i s = .next t) :
    (∃ v, t = answered v s) ∨ ∃ c, c ≠ 0 ∧ t = erred c s := by
  rcases exec_effect i s with ⟨v, s', he, e⟩ | ⟨k, hk, -, he⟩ <;> cases h.symm.trans he
  · rcases e.eq_self_or_writes with rfl | ⟨n, hn⟩ | hmem
    · exact .inl ⟨v, rfl⟩
    · exact absurd hn (hw n)
    · exact absurd hmem hi
  · exact .inr ⟨codeNumber k, mt codeNumber_eq_zero.mp hk, rfl⟩

/-- R229: the fields a completion with code 0 writes; ERR is not set. -/
theorem answered_eq_update (v : Word) (s : State) : answered v s = { s with
    lastCode := 0, err := s.err || decide ((0 : Byte) ≠ 0), response := some { code := 0, result := v },
    host := s.host.tail } := by
  simp [answered]

/-- R228, R229: the fields an error writes; ERR is set. -/
theorem erred_eq_update {c : Byte} (hc : c ≠ 0) (s : State) : erred c s = { s with
    lastCode := c, err := s.err || decide (c ≠ 0), response := some { code := c, result := 0 },
    host := s.host.tail } := by
  simpa [erred] using Or.inr hc

/-- Settles O56: a command that is none of the six writers only completes. -/
theorem readsAndEnginesWriteOnlyStatus : Obligations.ReadsAndEnginesWriteOnlyStatus := by
  intro i s t hi h
  have hw : ∀ n, i ≠ .wrcsr n := by rintro n rfl; exact hi
  have hmem : i ∉ [Instr.configure, .bind, .tblBuildMsb, .tblBuildLsb, .tblBuild] := by
    cases i <;> simp at hi ⊢
  rcases exec_of_not_writes hw hmem h with ⟨v, rfl⟩ | ⟨c, hc, rfl⟩
  · exact answered_eq_update v s
  · exact erred_eq_update hc s

/-! ## Repeated reads (R79) -/

/-- R49: of the registers only STATUS tells that a command has answered since; the host's moves are in none. -/
theorem readCsr_after_answer {r : Csr} (hr : r ≠ .status) (v : Word) (s : State) (h : List HostMove) :
    readCsr r { answered v s with host := h } = readCsr r s := by
  cases r with
  | status => exact absurd rfl hr
  | _ => rfl

theorem rdcsr_again {n : BitVec 12} (hn : n ≠ 0x020) {s t u : State} {h : List HostMove}
    (ht : exec (.rdcsr n) s = .next t) (hu : exec (.rdcsr n) { t with host := h } = .next u) :
    u.response = t.response := by
  cases hr : csrNamed n with
  | none =>
    cases ht.symm.trans (exec_rdcsr_unassigned hr s)
    cases hu.symm.trans (exec_rdcsr_unassigned hr _)
    rfl
  | some r =>
    obtain rfl := csrNamed_eq_some.mp hr
    have hstatus : r ≠ .status := by rintro rfl; exact hn rfl
    cases ht.symm.trans (exec_rdcsr_csrNumber r s)
    cases hu.symm.trans (exec_rdcsr_csrNumber r _)
    rw [answered_response, readCsr_after_answer hstatus, answered_response]

/-- R158. -/
theorem exec_tblRead_of_valid (k : Byte) {s : State} (hv : s.tableValid = true) :
    exec (.tblRead k) s = .next (answered (tableEntry s.table k) s) :=
  (if_pos hv).trans (respond_eq _ s)

/-- R158: no table was built since reset. -/
theorem exec_tblRead_of_not_valid (k : Byte) {s : State} (hv : ¬ s.tableValid = true) :
    exec (.tblRead k) s = .next (erred 4 s) :=
  (if_neg hv).trans (raise_eq _ (by decide) s)

theorem tblRead_again {k : Byte} {s t u : State} {h : List HostMove}
    (ht : exec (.tblRead k) s = .next t) (hu : exec (.tblRead k) { t with host := h } = .next u) :
    u.response = t.response := by
  by_cases hv : s.tableValid = true
  · cases ht.symm.trans (exec_tblRead_of_valid k hv)
    cases hu.symm.trans (exec_tblRead_of_valid k hv)
    rfl
  · cases ht.symm.trans (exec_tblRead_of_not_valid k hv)
    cases hu.symm.trans (exec_tblRead_of_not_valid k hv)
    rfl

/-- Settles O57: a read writes nothing that it reads, STATUS apart. -/
theorem repeatedReadsAgree : Obligations.RepeatedReadsAgree := by
  intro i s t u h hi ht hu
  cases i with
  | rdcsr n => exact rdcsr_again hi ht hu
  | tblRead k => exact tblRead_again ht hu
  | _ => exact hi.elim

end Sys2Proof.Machine
end

section
/-! SUPPORT. The encoding as a bijection between the well-formed commands and the legal words, which words those are by
their numbers, and what an illegal word and an unassigned CSR number raise (30_encoding.md R99 to R106). -/

namespace Sys2Proof.Machine

/-! ## Decode after encode (R99, R101, R105) -/

/-- Settles O2, by the row of the command's opcode and the format that row has. -/
theorem encodedCommandDecodesToItself : Obligations.EncodedCommandDecodesToItself :=
  fun _ => decode_encode

/-! ## Encode after decode (R101) -/

/-- A command word is its opcode and its low 24 bits (R91). -/
theorem word_of_opcode_and_field (c : CmdWord) :
    ((opcodeOf c).setWidth 32 <<< 24) ||| (c.extractLsb' 0 24).setWidth 32 = c := by
  refine BitVec.eq_of_getLsbD_eq fun j hj => ?_
  by_cases h : j < 24
  · simp [h, hj]
  · have h1 : j - 24 < 8 := by omega
    have h2 : 24 + (j - 24) = j := by omega
    simp [opcodeOf, h, hj, h1, h2]

theorem encode_eq_of_opcode_and_field {i : Instr} {c : CmdWord} (ho : opcodeOf c = opcode i)
    (hf : operandField i = c.extractLsb' 0 24) : encode i = c := by
  rw [encode, ← ho, hf, word_of_opcode_and_field]

/-- Where the bits above a field of `n` bits are zero, the field is the whole of `CMD[23:0]` (R94, R95, R97). -/
theorem field_setWidth_of_high_zero {c : CmdWord} {n m : Nat} (hnm : n + m = 24) (hz : c.extractLsb' n m = 0#m) :
    (c.extractLsb' 0 n).setWidth 24 = c.extractLsb' 0 24 := by
  refine BitVec.eq_of_getLsbD_eq fun j hj => ?_
  by_cases h : j < n
  · simp [h, hj]
  · have h1 : j - n < m := by omega
    have h2 : n + (j - n) = j := by omega
    have hbit := congrArg (·.getLsbD (j - n)) hz
    simp [h1, h2] at hbit
    simp [h, hj, hbit]

/-! What a word of each format decodes to: its field has to be all of `CMD[23:0]`. Format M is format N (R93, R96). -/

theorem decodeN_eq_ok {c : CmdWord} {i j : Instr} (h : decodeN c j = .ok i) : i = j ∧ c.extractLsb' 0 24 = 0#24 := by
  unfold decodeN at h
  split at h
  · next hz => cases h; exact ⟨rfl, hz⟩
  · cases h

theorem decodeM_eq_ok {c : CmdWord} {i j : Instr} (h : decodeM c j = .ok i) : i = j ∧ c.extractLsb' 0 24 = 0#24 :=
  decodeN_eq_ok h

theorem decodeC_eq_ok {c : CmdWord} {i : Instr} {mk : BitVec 12 → Instr} (h : decodeC c mk = .ok i) :
    ∃ csr : BitVec 12, i = mk csr ∧ csr.setWidth 24 = c.extractLsb' 0 24 := by
  unfold decodeC at h
  split at h
  · next hz => cases h; exact ⟨_, rfl, field_setWidth_of_high_zero rfl hz⟩
  · cases h

theorem decodeI_eq_ok {c : CmdWord} {i : Instr} {mk : BitVec 8 → Instr} (h : decodeI c mk = .ok i) :
    ∃ idx : BitVec 8, i = mk idx ∧ idx.setWidth 24 = c.extractLsb' 0 24 := by
  unfold decodeI at h
  split at h
  · next hz => cases h; exact ⟨_, rfl, field_setWidth_of_high_zero rfl hz⟩
  · cases h

theorem decodeW_eq_ok {c : CmdWord} {i : Instr} {mk : BitVec 7 → Instr} (h : decodeW c mk = .ok i) :
    ∃ rw : BitVec 7, i = mk rw ∧ rw.toNat ≤ Config.maxWidth ∧ rw.setWidth 24 = c.extractLsb' 0 24 := by
  unfold decodeW at h
  split at h
  · next hz =>
    split at h
    · next hw => cases h; exact ⟨_, rfl, hw, field_setWidth_of_high_zero rfl hz⟩
    · cases h
  · cases h

/-- R99: a word that decodes has the opcode of its command, and the command's field as its low 24 bits. -/
theorem decode_eq_ok {c : CmdWord} {i : Instr} (h : decode c = .ok i) :
    WellFormed i = true ∧ opcodeOf c = opcode i ∧ operandField i = c.extractLsb' 0 24 := by
  unfold decode at h
  split at h
  case h_2 hop | h_3 hop => obtain ⟨csr, rfl, hf⟩ := decodeC_eq_ok h; exact ⟨rfl, hop, hf⟩
  case h_6 hop => obtain ⟨rw, rfl, hw, hf⟩ := decodeW_eq_ok h; exact ⟨decide_eq_true hw, hop, hf⟩
  case h_7 hop | h_8 hop | h_9 hop | h_14 hop | h_15 hop | h_16 hop =>
    obtain ⟨rfl, hf⟩ := decodeM_eq_ok h; exact ⟨rfl, hop, hf.symm⟩
  case h_13 hop => obtain ⟨idx, rfl, hf⟩ := decodeI_eq_ok h; exact ⟨rfl, hop, hf⟩
  case h_17 => cases h
  case h_1 hop | h_4 hop | h_5 hop | h_10 hop | h_11 hop | h_12 hop =>
    obtain ⟨rfl, hf⟩ := decodeN_eq_ok h; exact ⟨rfl, hop, hf.symm⟩

/-- Settles O3, from the opcode and the field of a word that decodes. -/
theorem decodedCommandEncodesToItsWord : Obligations.DecodedCommandEncodesToItsWord := by
  intro c i h
  obtain ⟨hwf, hop, hf⟩ := decode_eq_ok h
  exact ⟨hwf, encode_eq_of_opcode_and_field hop hf⟩

/-! ## The legal words by their numbers (R100) -/

/-- The legal words are the encodings of the well-formed commands. -/
theorem legal_iff_encoded (c : CmdWord) : (∃ i, decode c = .ok i) ↔ ∃ i, WellFormed i = true ∧ encode i = c :=
  ⟨fun ⟨i, h⟩ => ⟨i, decodedCommandEncodesToItsWord c i h⟩, fun ⟨i, hwf, he⟩ => ⟨i, he ▸ decode_encode hwf⟩⟩

/-- R105: the number of an encoded word. -/
theorem encode_toNat (i : Instr) : (encode i).toNat = (opcode i).toNat * 2 ^ 24 + (operandField i).toNat := by
  have ho := (opcode i).isLt
  have hf := (operandField i).isLt
  have hlow : (operandField i).toNat % 2 ^ 32 = (operandField i).toNat := Nat.mod_eq_of_lt (by omega)
  have hhigh : (opcode i).toNat <<< 24 % 2 ^ 32 = 2 ^ 24 * (opcode i).toNat := by
    rw [Nat.shiftLeft_eq, Nat.mod_eq_of_lt (by omega), Nat.mul_comm]
  rw [encode, BitVec.toNat_or, BitVec.toNat_shiftLeft, BitVec.toNat_setWidth_of_le (by decide),
    BitVec.toNat_setWidth, hlow, hhigh, ← Nat.two_pow_add_eq_or_of_lt hf, Nat.mul_comm]

theorem encode_toNat_of_field {i : Instr} {n b : Nat} {x : BitVec n} (hn : n ≤ 24)
    (hf : operandField i = x.setWidth 24) (hb : (opcode i).toNat * 2 ^ 24 = b) : (encode i).toNat = b + x.toNat := by
  rw [encode_toNat, hf, BitVec.toNat_setWidth_of_le hn, hb]

theorem encode_rdcsr_toNat (csr : BitVec 12) : (encode (.rdcsr csr)).toNat = 0x01000000 + csr.toNat :=
  encode_toNat_of_field (by decide) rfl (by simp [opcode])

theorem encode_wrcsr_toNat (csr : BitVec 12) : (encode (.wrcsr csr)).toNat = 0x02000000 + csr.toNat :=
  encode_toNat_of_field (by decide) rfl (by simp [opcode])

theorem encode_reflect_toNat (rw : BitVec 7) : (encode (.reflect rw)).toNat = 0x10000000 + rw.toNat :=
  encode_toNat_of_field (by decide) rfl (by simp [opcode])

theorem encode_tblRead_toNat (idx : BitVec 8) : (encode (.tblRead idx)).toNat = 0x33000000 + idx.toNat :=
  encode_toNat_of_field (by decide) rfl (by simp [opcode])

/-- R105: the words of a command whose field goes up to `k` are the numbers from `b` to `b + k`. -/
theorem exists_encode_eq_iff {n k b : Nat} {mk : BitVec n → Instr} (hk : k < 2 ^ n)
    (hmk : ∀ x, (encode (mk x)).toNat = b + x.toNat) (c : CmdWord) :
    (∃ x, x.toNat ≤ k ∧ encode (mk x) = c) ↔ b ≤ c.toNat ∧ c.toNat ≤ b + k := by
  constructor
  · rintro ⟨x, hx, rfl⟩
    rw [hmk]
    omega
  · rintro ⟨hlo, hhi⟩
    have hx : (BitVec.ofNat n (c.toNat - b)).toNat = c.toNat - b := Nat.mod_eq_of_lt (by omega)
    exact ⟨.ofNat n (c.toNat - b), by omega, BitVec.eq_of_toNat_eq (by rw [hmk]; omega)⟩

/-- The commands of formats N and M, which carry no field (R99). -/
def fieldless : List Instr :=
  [.nop, .configure, .bind, .refMsb, .refLsb, .refCrc, .tblBuildMsb, .tblBuildLsb, .tblBuild, .tblMsb, .tblLsb, .crc]

theorem fieldless_numbers : fieldless.map (fun i => (encode i).toNat) =
    [0x00000000, 0x03000000, 0x04000000, 0x20000000, 0x21000000, 0x22000000, 0x30000000, 0x31000000,
      0x32000000, 0x40000000, 0x41000000, 0x42000000] := by
  decide

theorem exists_fieldless_iff (c : CmdWord) : (∃ i ∈ fieldless, encode i = c) ↔
    c.toNat ∈ [0x00000000, 0x03000000, 0x04000000, 0x20000000, 0x21000000, 0x22000000, 0x30000000, 0x31000000,
      0x32000000, 0x40000000, 0x41000000, 0x42000000] := by
  simp only [← fieldless_numbers, List.mem_map, BitVec.toNat_inj]

/-- The encoded words by the kinds of their commands (R99): no field, a CSR number, a width up to 64, a table index. -/
theorem encoded_iff (c : CmdWord) : (∃ i, WellFormed i = true ∧ encode i = c) ↔
    (∃ i ∈ fieldless, encode i = c) ∨ (∃ csr : BitVec 12, csr.toNat ≤ 0xFFF ∧ encode (.rdcsr csr) = c) ∨
    (∃ csr : BitVec 12, csr.toNat ≤ 0xFFF ∧ encode (.wrcsr csr) = c) ∨
    (∃ rw : BitVec 7, rw.toNat ≤ 64 ∧ encode (.reflect rw) = c) ∨
    ∃ idx : BitVec 8, idx.toNat ≤ 0xFF ∧ encode (.tblRead idx) = c := by
  constructor
  · rintro ⟨i, hwf, he⟩
    cases i with
    | rdcsr csr => exact .inr (.inl ⟨csr, by omega, he⟩)
    | wrcsr csr => exact .inr (.inr (.inl ⟨csr, by omega, he⟩))
    | reflect rw => exact .inr (.inr (.inr (.inl ⟨rw, of_decide_eq_true hwf, he⟩)))
    | tblRead idx => exact .inr (.inr (.inr (.inr ⟨idx, by omega, he⟩)))
    | _ => exact .inl ⟨_, by decide, he⟩
  · have hwf : ∀ i ∈ fieldless, WellFormed i = true := by decide
    rintro (⟨i, hi, he⟩ | ⟨csr, -, he⟩ | ⟨csr, -, he⟩ | ⟨rw, hw, he⟩ | ⟨idx, -, he⟩)
    · exact ⟨i, hwf i hi, he⟩
    · exact ⟨_, rfl, he⟩
    · exact ⟨_, rfl, he⟩
    · exact ⟨.reflect rw, decide_eq_true hw, he⟩
    · exact ⟨_, rfl, he⟩

/-! ## What an illegal word and an unassigned CSR number do (R100) -/

theorem step_eq_erred_of_illegal {s : State} {t : Transaction} {why : Illegal} (hf : inFlight s = some t)
    (hd : deliverable t = true) (hc : decode t.cmd = .error why) : step s = .next (erred 2 s) := by
  obtain ⟨rest, hs⟩ := inFlight_eq_some.mp hf
  have hraise : raise .illegalCommand s = .next (erred 2 s) := raise_eq .illegalCommand (by decide) s
  simp [step, hs, hd, hc, raiseIllegalWord, hraise]

/-- R36: a number that names a register is in the list. -/
theorem csrNamed_eq_none_of_not_mem {n : BitVec 12} (h : n.toNat ∉ [0x000, 0x001, 0x002, 0x003, 0x004, 0x005, 0x011,
    0x012, 0x013, 0x014, 0x015, 0x020, 0x021, 0x022, 0x023]) : csrNamed n = none := by
  refine Option.eq_none_iff_forall_ne_some.mpr fun r hr => h ?_
  rw [csrNamed_eq_some.mp hr]
  cases r <;> decide

theorem exec_wrcsr_unassigned {n : BitVec 12} (h : csrNamed n = none) (s : State) :
    exec (.wrcsr n) s = .next (erred 2 s) := by
  simp [exec, execWrcsr, h, raise_eq, codeNumber]

/-- Settles O4: the legal words are the encoded ones, one range of numbers for each command with a field. -/
theorem illegalWordsRaiseIllegalCommand : Obligations.IllegalWordsRaiseIllegalCommand := by
  refine ⟨fun c => ?_, fun _ _ _ => step_eq_erred_of_illegal, fun n s hn => ?_⟩
  · rw [legal_iff_encoded, encoded_iff, exists_fieldless_iff, exists_encode_eq_iff (by decide) encode_rdcsr_toNat,
      exists_encode_eq_iff (by decide) encode_wrcsr_toNat, exists_encode_eq_iff (by decide) encode_reflect_toNat,
      exists_encode_eq_iff (by decide) encode_tblRead_toNat]
  · have hnone := csrNamed_eq_none_of_not_mem hn
    exact ⟨exec_rdcsr_unassigned hnone s, exec_wrcsr_unassigned hnone s⟩

/-! ## The worked words (R105, R106) -/

/-- Settles O1: the worked words of R105 are encodings, and the four of R106 each fail the check of their row. -/
theorem workedWordsDecode : Obligations.WorkedWordsDecode :=
  ⟨decode_encode (i := .nop) rfl, decode_encode (i := .rdcsr 0x020) rfl, decode_encode (i := .wrcsr 0x002) rfl,
    decode_encode (i := .wrcsr 0x005) rfl, decode_encode (i := .configure) rfl, decode_encode (i := .bind) rfl,
    decode_encode (i := .reflect 32) rfl, decode_encode (i := .refCrc) rfl, decode_encode (i := .tblBuildLsb) rfl,
    decode_encode (i := .tblRead 255) rfl, decode_encode (i := .crc) rfl, by decide, by decide, by decide, by decide⟩

end Sys2Proof.Machine
end

section
/-! SUPPORT. Which words of an opcode are legal and what they run, by the number in `CMD[23:0]` (30_encoding.md R99 to
R101), the meaning of REFLECT (40_bit_reflector.md R122), and the laws of `reflect` (R121). -/

namespace Sys2Proof.Machine

/-! ## The command words of an opcode (R99, R101) -/

/-- A delivered word of an opcode runs the command it decodes to, so the decoder alone says what the opcode's words do. -/
theorem commandWords_of_decode (opc : BitVec 8) {f : Nat → Option Instr}
    (h : ∀ c : CmdWord, opcodeOf c = opc → (decode c).toOption = f (c.toNat % 2 ^ 24)) : CommandWords opc.toNat f := by
  intro s t hf hd hopc
  rw [← h t.cmd (BitVec.eq_of_toNat_eq ((opcodeOf_toNat t.cmd).trans hopc))]
  cases hc : decode t.cmd with
  | ok i => exact step_eq_exec hf hd hc
  | error why => exact step_eq_erred_of_illegal hf hd hc

/-- The bits of `CMD[23:0]` from bit `n` upward are zero exactly when its number is below `2^n` (R94, R95, R97). -/
theorem extractLsb'_high_eq_zero_iff (c : CmdWord) {n m : Nat} (hnm : n + m = 24) :
    c.extractLsb' n m = 0#m ↔ c.toNat % 2 ^ 24 < 2 ^ n := by
  rw [← BitVec.toNat_inj, BitVec.extractLsb'_toNat, BitVec.toNat_zero, Nat.shiftRight_eq_div_pow,
    ← Nat.mod_mul_right_div_self, ← pow_add, hnm]
  exact Nat.div_eq_zero_iff_lt (Nat.two_pow_pos n)

/-- The low `n` bits of `CMD[23:0]` by its number (R94, R95, R97). -/
theorem extractLsb'_low_eq_ofNat (c : CmdWord) {n : Nat} (hn : n ≤ 24) :
    c.extractLsb' 0 n = BitVec.ofNat n (c.toNat % 2 ^ 24) := by
  refine BitVec.eq_of_toNat_eq ?_
  rw [BitVec.extractLsb'_toNat, Nat.shiftRight_zero, BitVec.toNat_ofNat, Nat.mod_mod_of_dvd _ (Nat.pow_dvd_pow 2 hn)]

/-- R95: a field of format W up to 64 is a width, and every other field is an error. -/
theorem decodeW_toOption (c : CmdWord) (mk : BitVec 7 → Instr) : (decodeW c mk).toOption =
    if c.toNat % 2 ^ 24 ≤ 64 then some (mk (BitVec.ofNat 7 (c.toNat % 2 ^ 24))) else none := by
  rw [decodeW, extractLsb'_low_eq_ofNat c (by decide)]
  by_cases hz : c.toNat % 2 ^ 24 < 2 ^ 7
  · have hw : (BitVec.ofNat 7 (c.toNat % 2 ^ 24)).toNat = c.toNat % 2 ^ 24 := Nat.mod_eq_of_lt hz
    rw [if_pos ((extractLsb'_high_eq_zero_iff c rfl).mpr hz), hw, Config.maxWidth]
    split <;> rfl
  · rw [if_neg (mt (extractLsb'_high_eq_zero_iff c rfl).mp hz), if_neg (by omega)]
    rfl

/-! ## REFLECT (R122) -/

theorem exec_reflect_of_gt {rw : BitVec 7} (h : 64 < rw.toNat) (s : State) :
    exec (.reflect rw) s = .next (erred 2 s) :=
  (if_pos h).trans (raise_eq .illegalCommand (by decide) s)

theorem exec_reflect_of_le {rw : BitVec 7} (h : rw.toNat ≤ 64) (s : State) :
    exec (.reflect rw) s = .next (answered (reflect (opa s) rw.toNat) s) :=
  (if_neg (Nat.not_lt.mpr h)).trans (respond_eq _ s)

/-- Settles O17, from the row of opcode 0x10 in the decoder and the bits of a reflection. -/
theorem reflectReversesTheLowBits : Obligations.ReflectReversesTheLowBits :=
  ⟨commandWords_of_decode 0x10#8 fun c hc => by rw [decode_reflect_row hc, decodeW_toOption],
    fun _ s => ⟨fun h => exec_reflect_of_gt h s,
      fun h => ⟨_, exec_reflect_of_le h s, reflect_getLsbD (opa s) h⟩⟩⟩

/-! ## The laws of `reflect` (R121) -/

section
variable {w : Nat} (hw : w ≤ 64)
include hw

theorem reflect_fitsWidth (a : Word) : FitsWidth w (reflect a w) := by
  refine (fitsWidth_iff_bits _).mpr fun i hi => ?_
  rw [reflect_getLsbD a hw, decide_eq_false (Nat.not_lt.mpr hi), Bool.false_and]

/-- Two words with the same low `w` bits have the same reflection. -/
theorem reflect_congr {a b : Word} (h : ∀ i, i < w → a.getLsbD i = b.getLsbD i) : reflect a w = reflect b w := by
  refine BitVec.eq_of_getLsbD_eq fun j _ => ?_
  rw [reflect_getLsbD a hw, reflect_getLsbD b hw]
  by_cases hj : j < w
  · rw [h (w - 1 - j) (by omega)]
  · simp [hj]

theorem reflect_and_mask (a : Word) : reflect (a &&& mask w) w = reflect a w :=
  reflect_congr hw fun i hi => by simp [mask_getLsbD hw, hi]

theorem reflect_reflect {a : Word} (ha : FitsWidth w a) : reflect (reflect a w) w = a := by
  refine BitVec.eq_of_getLsbD_eq fun j _ => ?_
  rw [reflect_getLsbD _ hw, reflect_getLsbD _ hw]
  by_cases hj : j < w
  · have hback : w - 1 - (w - 1 - j) = j := by omega
    have hlt : w - 1 - j < w := by omega
    simp [hj, hback, hlt]
  · simp [hj, (fitsWidth_iff_bits a).mp ha j (Nat.not_lt.mp hj)]

theorem reflect_xor (a b : Word) : reflect (a ^^^ b) w = reflect a w ^^^ reflect b w := by
  refine BitVec.eq_of_getLsbD_eq fun j _ => ?_
  simp only [reflect_getLsbD _ hw, BitVec.getLsbD_xor, Bool.and_xor_distrib_left]

theorem reflect_zero : reflect 0 w = 0 := by
  refine BitVec.eq_of_getLsbD_eq fun j _ => ?_
  simp [reflect_getLsbD _ hw]

theorem reflect_mask : reflect (mask w) w = mask w := by
  refine BitVec.eq_of_getLsbD_eq fun j _ => ?_
  rw [reflect_getLsbD _ hw, mask_getLsbD hw, mask_getLsbD hw, ← Bool.decide_and]
  exact decide_eq_decide.mpr (by omega)

end

/-- Settles O18, law by law, each from the bits of a reflection. -/
theorem reflectLaws : Obligations.ReflectLaws := fun _ a b hw =>
  ⟨reflect_fitsWidth hw a, (reflect_and_mask hw a).symm, reflect_reflect hw, reflect_xor hw a b, reflect_zero hw,
    reflect_mask hw⟩

end Sys2Proof.Machine
end

section
/-! SUPPORT. The division steps of the reference engine (41_reference_engine.md R131, R134) bit by bit, and what follows from
their bits: both are linear, and each is the other one reflected (R138). -/

namespace Sys2Proof.Machine

/-! ## The bits of a division step -/

/-- Bit `j` of an MSB step: the bit below it, with the polynomial's bit when the top bit goes out (R131). -/
theorem msbStep_getLsbD {w : Nat} (hw : w ≤ 64) (p r : Word) (j : Nat) : (msbStep w p r).getLsbD j =
    (decide (j < w) && ((decide (0 < j) && r.getLsbD (j - 1)) ^^ (r.getLsbD (w - 1) && p.getLsbD j))) := by
  have hshift : j < w → (r <<< 1).getLsbD j = (decide (0 < j) && r.getLsbD (j - 1)) := fun hj => by
    rw [BitVec.getLsbD_shiftLeft]
    simp [show j < 64 by omega, Nat.pos_iff_ne_zero]
  by_cases hj : j < w
  · cases htop : r.getLsbD (w - 1) <;> simp [msbStep, htop, mask_getLsbD hw, hj, hshift hj, -BitVec.getLsbD_shiftLeft]
  · cases htop : r.getLsbD (w - 1) <;> simp [msbStep, htop, mask_getLsbD hw, hj]

/-- Bit `j` of an LSB step: the bit above it, with the polynomial's bit when the low bit goes out (R134). -/
theorem lsbStep_getLsbD (rp r : Word) (j : Nat) : (lsbStep rp r).getLsbD j =
    (r.getLsbD (j + 1) ^^ (r.getLsbD 0 && rp.getLsbD j)) := by
  by_cases hlow : r.getLsbD 0 = true
  · rw [lsbStep, if_pos hlow, hlow]
    simp [Nat.add_comm 1 j]
  · rw [lsbStep, if_neg hlow, Bool.eq_false_of_not_eq_true hlow]
    simp [Nat.add_comm 1 j]

theorem msbStep_fitsWidth {w : Nat} (hw : w ≤ 64) (p r : Word) : FitsWidth w (msbStep w p r) := by
  refine (fitsWidth_iff_bits _).mpr fun j hj => ?_
  rw [msbStep_getLsbD hw, decide_eq_false (Nat.not_lt.mpr hj), Bool.false_and]

theorem fitsWidth_xor {w : Nat} {a b : Word} (ha : FitsWidth w a) (hb : FitsWidth w b) : FitsWidth w (a ^^^ b) := by
  rw [FitsWidth, BitVec.toNat_xor]
  exact Nat.xor_lt_two_pow ha hb

/-! ## On unbounded integers (R13) -/

theorem getLsbD_eq_true_iff (r : Word) (i : Nat) : r.getLsbD i = true ↔ r.toNat / 2 ^ i % 2 = 1 := by
  rw [← BitVec.testBit_toNat, Nat.testBit_eq_decide_div_mod_eq, decide_eq_true_iff]

/-- The bit that a shift of a 64-bit word drops lies above every width. -/
theorem shiftLeft_one_toNat_mod (r : Word) {w : Nat} (hw : w ≤ 64) : (r <<< 1).toNat % 2 ^ w = r.toNat * 2 % 2 ^ w := by
  rw [BitVec.toNat_shiftLeft, Nat.shiftLeft_eq, pow_one, Nat.mod_mod_of_dvd _ (Nat.pow_dvd_pow 2 hw)]

theorem msbStep_toNat {w : Nat} (hw : w ≤ 64) (p r : Word) : (msbStep w p r).toNat =
    (if r.toNat / 2 ^ (w - 1) % 2 = 1 then (r.toNat * 2) ^^^ p.toNat else r.toNat * 2) % 2 ^ w := by
  rw [msbStep]
  simp only [getLsbD_eq_true_iff]
  split
  · rw [and_mask_toNat _ hw, BitVec.toNat_xor, Nat.xor_mod_two_pow, shiftLeft_one_toNat_mod r hw, ← Nat.xor_mod_two_pow]
  · rw [and_mask_toNat _ hw, shiftLeft_one_toNat_mod r hw]

theorem lsbStep_toNat (rp r : Word) : (lsbStep rp r).toNat =
    (if r.toNat % 2 = 1 then (r.toNat / 2) ^^^ rp.toNat else r.toNat / 2) := by
  have hhalf : (r >>> 1).toNat = r.toNat / 2 := by rw [BitVec.toNat_ushiftRight, Nat.shiftRight_eq_div_pow, pow_one]
  rw [lsbStep]
  simp only [getLsbD_eq_true_iff, pow_zero, Nat.div_one]
  split
  · rw [BitVec.toNat_xor, hhalf]
  · exact hhalf

/-- Settles O22: only the shifted-out bit 64 is lost, and the reduction modulo `2^w` drops it in any case. -/
theorem divisionStepsOnUnboundedIntegers : Obligations.DivisionStepsOnUnboundedIntegers :=
  fun _ p r hw _ _ => ⟨msbStep_toNat hw.2 p r, lsbStep_toNat p r⟩

/-! ## Linearity and duality of the steps (R138, laws 5 and 2) -/

theorem msbStep_xor {w : Nat} (hw : w ≤ 64) (p : Word) : Function.Semiconj₂ (msbStep w p) (· ^^^ ·) (· ^^^ ·) := by
  refine fun a b => BitVec.eq_of_getLsbD_eq fun j _ => ?_
  simp only [msbStep_getLsbD hw, BitVec.getLsbD_xor, Bool.and_xor_distrib_left, Bool.and_xor_distrib_right, Bool.xor_assoc,
    Bool.xor_left_comm]

theorem lsbStep_xor (rp : Word) : Function.Semiconj₂ (lsbStep rp) (· ^^^ ·) (· ^^^ ·) := by
  refine fun a b => BitVec.eq_of_getLsbD_eq fun j _ => ?_
  simp only [lsbStep_getLsbD, BitVec.getLsbD_xor, Bool.and_xor_distrib_right, Bool.xor_assoc, Bool.xor_left_comm]

/-- Reflection turns MSB steps into LSB steps: it swaps the two neighbours of a bit, and the top bit with the low one. -/
theorem reflect_msbStep {w : Nat} (hw : LegalWidth w) (p : Word) :
    Function.Semiconj (reflect · w) (msbStep w p) (lsbStep (reflect p w)) := by
  refine fun r => BitVec.eq_of_getLsbD_eq fun j _ => ?_
  have hpos : 0 < w := hw.1
  simp only [lsbStep_getLsbD, reflect_getLsbD _ hw.2, msbStep_getLsbD hw.2]
  by_cases hj : j < w
  · have hback : w - 1 - j < w := by omega
    have hnext : w - 1 - (j + 1) = w - 1 - j - 1 := by omega
    have hedge : decide (j + 1 < w) = decide (0 < w - 1 - j) := decide_eq_decide.mpr (by omega)
    simp [hj, hback, hnext, hedge, hpos]
  · have hj' : ¬ j + 1 < w := by omega
    simp [hj, hj']

/-- Settles O25, bit by bit; no range of the polynomial or the register is needed. -/
theorem lsbStepIsReflectedMsbStep : Obligations.LsbStepIsReflectedMsbStep :=
  fun _ p r hw _ _ => (reflect_msbStep hw p r).symm

end Sys2Proof.Machine
end

section
/-! SUPPORT. The byte feeds of the reference engine (41_reference_engine.md R132, R135). For a width below 8 the MSB feed works
in a register widened by `8 - w` bits; with truncated subtraction one form of it holds for every width. -/

namespace Sys2Proof.Machine

/-! ## The MSB feed in one form for every width (R132) -/

/-- The division step in the feed's register, of `max w 8` bits, with the CRC in its top `w` bits. -/
def wideStep (w : Nat) (p : Word) : Word → Word := msbStep (w + (8 - w)) (p <<< (8 - w))

/-- The feed's register when the byte has been folded in. -/
def wideReg (w : Nat) (r : Word) (b : Byte) : Word := (r <<< (8 - w)) ^^^ (b.setWidth 64 <<< (w - 8))

theorem msbFeed_eq_wide (w : Nat) (p r : Word) (b : Byte) :
    msbFeed w p r b = (wideStep w p)^[8] (wideReg w r b) >>> (8 - w) := by
  unfold msbFeed wideStep wideReg
  split
  · next h => simp only [Nat.sub_eq_zero_of_le h, Nat.add_zero, BitVec.shiftLeft_zero, BitVec.ushiftRight_zero]
  · next h =>
    rw [show w + (8 - w) = 8 by omega, Nat.sub_eq_zero_of_le (show w ≤ 8 by omega), BitVec.shiftLeft_zero]

theorem wideWidth_le {w : Nat} (hw : w ≤ 64) : w + (8 - w) ≤ 64 := by omega

/-- Above the byte's 8 bits the wide register has the `w - 8` bits that the byte is shifted up by. -/
theorem wideWidth_eq (w : Nat) : w + (8 - w) = 8 + (w - 8) := by omega

/-! ## Range (R132, R135) -/

/-- A value shifted down by `s` loses `s` bits of width. -/
theorem fitsWidth_shiftRight {w s : Nat} {a : Word} (ha : FitsWidth (w + s) a) : FitsWidth w (a >>> s) := by
  refine (fitsWidth_iff_bits _).mpr fun j hj => ?_
  rw [BitVec.getLsbD_ushiftRight]
  exact (fitsWidth_iff_bits a).mp ha _ (by omega)

theorem msbFeed_fitsWidth {w : Nat} (hw : w ≤ 64) (p r : Word) (b : Byte) : FitsWidth w (msbFeed w p r b) := by
  rw [msbFeed_eq_wide, Function.iterate_succ_apply']
  exact fitsWidth_shiftRight (msbStep_fitsWidth (wideWidth_le hw) _ _)

theorem lsbFeed_fitsWidth {w : Nat} (hw : w ≤ 64) (rp r : Word) (b : Byte) : FitsWidth w (lsbFeed w rp r b) :=
  and_mask_lt _ hw

/-- A value that fits the width passes the mask unchanged. -/
theorem and_mask_of_fitsWidth {w : Nat} (hw : w ≤ 64) {a : Word} (ha : FitsWidth w a) : a &&& mask w = a :=
  BitVec.eq_of_toNat_eq ((and_mask_toNat a hw).trans (Nat.mod_eq_of_lt ha))

/-- R135: each LSB step takes one bit off a register that is wider than the polynomial. -/
theorem lsbStep_fitsWidth {w n : Nat} {rp r : Word} (hrp : FitsWidth w rp) (hr : FitsWidth (max (n + 1) w) r) :
    FitsWidth (max n w) (lsbStep rp r) := by
  refine (fitsWidth_iff_bits _).mpr fun j hj => ?_
  rw [lsbStep_getLsbD, (fitsWidth_iff_bits r).mp hr (j + 1) (by omega), (fitsWidth_iff_bits rp).mp hrp j (by omega),
    Bool.and_false, Bool.xor_false]

theorem lsbStep_iterate_fitsWidth {w : Nat} {rp : Word} (hrp : FitsWidth w rp) (n : Nat) {r : Word}
    (hr : FitsWidth (max n w) r) : FitsWidth w ((lsbStep rp)^[n] r) := by
  induction n generalizing r with
  | zero => simpa using hr
  | succ n ih => exact ih (lsbStep_fitsWidth hrp hr)

theorem byte_fitsWidth {w : Nat} (hw : 8 ≤ w) (b : Byte) : FitsWidth w (b.setWidth 64) := by
  refine (fitsWidth_iff_bits _).mpr fun j hj => ?_
  rw [BitVec.getLsbD_setWidth, BitVec.getLsbD_of_ge b j (by omega), Bool.and_false]

theorem fitsWidth_mono {w v : Nat} (h : w ≤ v) {a : Word} (ha : FitsWidth w a) : FitsWidth v a :=
  Nat.lt_of_lt_of_le ha (Nat.pow_le_pow_right (by decide) h)

/-- R135: the one mask of the LSB feed changes no value. -/
theorem lsbFeed_eq_iterate {w : Nat} (hw : w ≤ 64) {rp r : Word} (hrp : FitsWidth w rp) (hr : FitsWidth w r) (b : Byte) :
    lsbFeed w rp r b = (lsbStep rp)^[8] (r ^^^ b.setWidth 64) :=
  and_mask_of_fitsWidth hw (lsbStep_iterate_fitsWidth hrp 8
    (fitsWidth_xor (fitsWidth_mono (Nat.le_max_right 8 w) hr) (byte_fitsWidth (Nat.le_max_left 8 w) b)))

/-- R132: `n` steps with a polynomial whose low `s` bits are clear bring in a zero each, up to `s` of them. -/
theorem msbStep_iterate_low_bits {v : Nat} (hv : v ≤ 64) (p r : Word) (s n : Nat) {j : Nat} (hs : j < s) (hn : j < n) :
    ((msbStep v (p <<< s))^[n] r).getLsbD j = false := by
  induction n generalizing j with
  | zero => omega
  | succ n ih =>
    have hp : (p <<< s).getLsbD j = false := by simp [hs]
    have hbelow : (decide (0 < j) && ((msbStep v (p <<< s))^[n] r).getLsbD (j - 1)) = false := by
      rcases Nat.eq_zero_or_pos j with rfl | hpos
      · rfl
      · rw [ih (by omega) (by omega), Bool.and_false]
    rw [Function.iterate_succ_apply', msbStep_getLsbD hv, hp, hbelow, Bool.and_false, Bool.xor_false, Bool.and_false]

theorem toNat_mod_two_pow_eq_zero {a : Word} {s : Nat} (h : ∀ j, j < s → a.getLsbD j = false) : a.toNat % 2 ^ s = 0 := by
  refine Nat.eq_of_testBit_eq fun j => ?_
  rw [Nat.testBit_mod_two_pow, BitVec.testBit_toNat, Nat.zero_testBit]
  by_cases hj : j < s
  · rw [h j hj, Bool.and_false]
  · rw [decide_eq_false hj, Bool.false_and]

/-- Settles O23: the last MSB step and the LSB mask bound the feeds, and each step moves the ranges of R132 and R135 on. -/
theorem feedsStayInTheWidth : Obligations.FeedsStayInTheWidth := fun _ p r b hw hp hr =>
  ⟨msbFeed_fitsWidth hw.2 p r b, lsbFeed_fitsWidth hw.2 p r b, lsbFeed_eq_iterate hw.2 hp hr b,
    fun _ => toNat_mod_two_pow_eq_zero fun _ hj => msbStep_iterate_low_bits (by decide) p _ _ 8 hj (by omega)⟩

/-! ## Linearity (R138, law 5) -/

theorem wideReg_xor (w : Nat) (r₁ r₂ : Word) (b₁ b₂ : Byte) :
    wideReg w (r₁ ^^^ r₂) (b₁ ^^^ b₂) = wideReg w r₁ b₁ ^^^ wideReg w r₂ b₂ := by
  simp only [wideReg, BitVec.setWidth_xor, BitVec.shiftLeft_xor_distrib]
  ac_rfl

theorem msbFeed_xor {w : Nat} (hw : w ≤ 64) (p r₁ r₂ : Word) (b₁ b₂ : Byte) :
    msbFeed w p (r₁ ^^^ r₂) (b₁ ^^^ b₂) = msbFeed w p r₁ b₁ ^^^ msbFeed w p r₂ b₂ := by
  have hsteps := (msbStep_xor (wideWidth_le hw) (p <<< (8 - w))).iterate 8
  simp only [msbFeed_eq_wide, wideReg_xor, wideStep, hsteps.eq, BitVec.ushiftRight_xor_distrib]

theorem xor_and_mask (a b : Word) (w : Nat) : (a ^^^ b) &&& mask w = (a &&& mask w) ^^^ (b &&& mask w) := by
  refine BitVec.eq_of_getLsbD_eq fun j _ => ?_
  simp only [BitVec.getLsbD_and, BitVec.getLsbD_xor, Bool.and_xor_distrib_right]

theorem lsbFeed_xor (w : Nat) (rp r₁ r₂ : Word) (b₁ b₂ : Byte) :
    lsbFeed w rp (r₁ ^^^ r₂) (b₁ ^^^ b₂) = lsbFeed w rp r₁ b₁ ^^^ lsbFeed w rp r₂ b₂ := by
  have hsteps := (lsbStep_xor rp).iterate 8
  have hin : (r₁ ^^^ r₂) ^^^ (b₁ ^^^ b₂).setWidth 64 = (r₁ ^^^ b₁.setWidth 64) ^^^ (r₂ ^^^ b₂.setWidth 64) := by
    rw [BitVec.setWidth_xor]
    ac_rfl
  simp only [lsbFeed, hin, hsteps.eq, xor_and_mask]

/-- Settles O29: the eight steps of a feed are linear because one is. -/
theorem feedsAreLinear : Obligations.FeedsAreLinear := fun w p r₁ r₂ b₁ b₂ hw _ _ _ =>
  ⟨msbFeed_xor hw.2 p r₁ r₂ b₁ b₂, lsbFeed_xor w p r₁ r₂ b₁ b₂⟩

end Sys2Proof.Machine
end

section
/-! SUPPORT. The MSB feed as the bit-serial loop (41_reference_engine.md R138, law 4). The widened register always holds the
serial register in its top bits, XORed with the byte's bits that are still to come. -/

namespace Sys2Proof.Machine

/-- One turn of the loop of R138, law 4: bit `7 - j` of the byte meets the top bit of the register. -/
def bitSerialStep (w : Nat) (p : Word) (b : Byte) (r : Word) (j : Nat) : Word :=
  if xor (r.getLsbD (w - 1)) (b.getLsbD (7 - j)) then ((r <<< 1) &&& mask w) ^^^ p else (r <<< 1) &&& mask w

/-- What the wide register still holds of the byte after `n` steps, at the top of the register. -/
def pendingBits (w : Nat) (b : Byte) (n : Nat) : Word := (b.setWidth 64 <<< (w - 8 + n)) &&& mask (w + (8 - w))

/-! ## A division step under a shift -/

theorem shiftLeft_getLsbD_of_lt (a : Word) (s : Nat) {j : Nat} (hj : j < 64) :
    (a <<< s).getLsbD j = (decide (s ≤ j) && a.getLsbD (j - s)) := by
  rw [BitVec.getLsbD_shiftLeft, decide_eq_true hj, Bool.true_and, ← decide_not]
  simp only [Nat.not_lt]

theorem fitsWidth_shiftLeft {w s : Nat} {a : Word} (ha : FitsWidth w a) : FitsWidth (w + s) (a <<< s) := by
  refine (fitsWidth_iff_bits _).mpr fun j hj => ?_
  rw [BitVec.getLsbD_shiftLeft, (fitsWidth_iff_bits a).mp ha (j - s) (by omega), Bool.and_false]

/-- A shift up and back loses nothing of a value that has room for it. -/
theorem shiftLeft_shiftRight_of_fitsWidth {w s : Nat} (h : w + s ≤ 64) {a : Word} (ha : FitsWidth w a) :
    a <<< s >>> s = a := by
  refine BitVec.eq_of_getLsbD_eq fun j _ => ?_
  rw [BitVec.getLsbD_ushiftRight]
  by_cases hj : j < w
  · simp [shiftLeft_getLsbD_of_lt a s (show s + j < 64 by omega)]
  · rw [(fitsWidth_iff_bits a).mp ha j (by omega),
      (fitsWidth_iff_bits _).mp (fitsWidth_shiftLeft ha) (s + j) (by omega)]

/-- The wide step divides the shifted register as the step of width `w` divides the register (R132). -/
theorem msbStep_shiftLeft {w s : Nat} (hw : 0 < w) (hs : w + s ≤ 64) (p r : Word) :
    msbStep (w + s) (p <<< s) (r <<< s) = msbStep w p r <<< s := by
  refine BitVec.eq_of_getLsbD_eq fun j hj => ?_
  have htop : (r <<< s).getLsbD (w + s - 1) = r.getLsbD (w - 1) := by
    rw [shiftLeft_getLsbD_of_lt r s (by omega), decide_eq_true (show s ≤ w + s - 1 by omega), Bool.true_and,
      show w + s - 1 - s = w - 1 by omega]
  rw [msbStep_getLsbD hs, htop, shiftLeft_getLsbD_of_lt p s hj, shiftLeft_getLsbD_of_lt r s (show j - 1 < 64 by omega),
    shiftLeft_getLsbD_of_lt _ s hj, msbStep_getLsbD (show w ≤ 64 by omega)]
  by_cases hjs : s ≤ j
  · have hlt : decide (j < w + s) = decide (j - s < w) := decide_eq_decide.mpr (by omega)
    have hbelow : (decide (0 < j) && decide (s ≤ j - 1)) = decide (0 < j - s) := by
      rw [← Bool.decide_and]
      exact decide_eq_decide.mpr (by omega)
    rw [hlt, ← Bool.and_assoc, hbelow, Nat.sub_right_comm, decide_eq_true hjs, Bool.true_and, Bool.true_and]
  · have hbelow : ¬ s ≤ j - 1 := by omega
    simp [hjs, hbelow]

/-- For a polynomial within the width the mask concerns the shift alone. -/
theorem msbStep_eq_xor {w : Nat} (hw : w ≤ 64) {p : Word} (hp : FitsWidth w p) (r : Word) :
    msbStep w p r = ((r <<< 1) &&& mask w) ^^^ (if r.getLsbD (w - 1) then p else 0#64) := by
  rw [msbStep]
  split
  · rw [xor_and_mask, and_mask_of_fitsWidth hw hp]
  · rw [BitVec.xor_zero]

/-! ## One turn of the loop -/

theorem bitSerialStep_eq {w : Nat} (hw : w ≤ 64) {p : Word} (hp : FitsWidth w p) (b : Byte) (r : Word) (n : Nat) :
    bitSerialStep w p b r n = msbStep w p r ^^^ (if b.getLsbD (7 - n) then p else 0#64) := by
  rw [msbStep_eq_xor hw hp, bitSerialStep]
  cases r.getLsbD (w - 1) <;> cases b.getLsbD (7 - n) <;> simp

theorem bitSerialStep_fitsWidth {w : Nat} (hw : w ≤ 64) {p : Word} (hp : FitsWidth w p) (b : Byte) (r : Word) (n : Nat) :
    FitsWidth w (bitSerialStep w p b r n) := by
  rw [bitSerialStep]
  split
  · exact fitsWidth_xor (and_mask_lt _ hw) hp
  · exact and_mask_lt _ hw

section
variable {w : Nat} (hw : w ≤ 64) (b : Byte)
include hw

theorem pendingBits_getLsbD (n j : Nat) : (pendingBits w b n).getLsbD j =
    (decide (j < w + (8 - w)) && (decide (w - 8 + n ≤ j) && b.getLsbD (j - (w - 8 + n)))) := by
  rw [pendingBits, BitVec.getLsbD_and, mask_getLsbD (wideWidth_le hw), Bool.and_comm]
  by_cases hj : j < w + (8 - w)
  · rw [shiftLeft_getLsbD_of_lt _ _ (by omega), BitVec.getLsbD_setWidth,
      decide_eq_true (show j - (w - 8 + n) < 64 by omega), Bool.true_and]
  · rw [decide_eq_false hj, Bool.false_and, Bool.false_and]

/-- At first all of the byte is pending. -/
theorem pendingBits_zero : pendingBits w b 0 = b.setWidth 64 <<< (w - 8) := by
  have hfits : FitsWidth (w + (8 - w)) (b.setWidth 64 <<< (w - 8)) := by
    have h := fitsWidth_shiftLeft (s := w - 8) (byte_fitsWidth (Nat.le_refl 8) b)
    rwa [← wideWidth_eq] at h
  exact and_mask_of_fitsWidth (wideWidth_le hw) hfits

/-- After eight steps nothing is. -/
theorem pendingBits_eight : pendingBits w b 8 = 0#64 := by
  refine BitVec.eq_of_getLsbD_eq fun j _ => ?_
  rw [pendingBits_getLsbD hw]
  by_cases hj : j < w + (8 - w)
  · simp [show ¬ w - 8 + 8 ≤ j by omega]
  · simp [hj]

/-- The next bit to come stands at the top. -/
theorem pendingBits_top {n : Nat} (hn : n < 8) : (pendingBits w b n).getLsbD (w + (8 - w) - 1) = b.getLsbD (7 - n) := by
  rw [pendingBits_getLsbD hw, decide_eq_true (show w + (8 - w) - 1 < w + (8 - w) by omega),
    decide_eq_true (show w - 8 + n ≤ w + (8 - w) - 1 by omega), show w + (8 - w) - 1 - (w - 8 + n) = 7 - n by omega,
    Bool.true_and, Bool.true_and]

theorem pendingBits_succ (n : Nat) : (pendingBits w b n <<< 1) &&& mask (w + (8 - w)) = pendingBits w b (n + 1) := by
  refine BitVec.eq_of_getLsbD_eq fun j hj => ?_
  rw [BitVec.getLsbD_and, mask_getLsbD (wideWidth_le hw), shiftLeft_getLsbD_of_lt _ _ hj, pendingBits_getLsbD hw,
    pendingBits_getLsbD hw, show j - 1 - (w - 8 + n) = j - (w - 8 + (n + 1)) by omega]
  by_cases hlt : w - 8 + (n + 1) ≤ j
  · have hprev : w - 8 + n ≤ j - 1 := by omega
    have hpos : 1 ≤ j := by omega
    by_cases hj' : j < w + (8 - w)
    · simp [hlt, hprev, hpos, hj', show j - 1 < w + (8 - w) by omega]
    · simp [hj']
  · by_cases hpos : 1 ≤ j
    · simp [hlt, show ¬ w - 8 + n ≤ j - 1 by omega]
    · simp [hlt, hpos]

theorem wideStep_pendingBits {p : Word} (hp : FitsWidth w p) {n : Nat} (hn : n < 8) : wideStep w p (pendingBits w b n) =
    ((if b.getLsbD (7 - n) then p else 0#64) <<< (8 - w)) ^^^ pendingBits w b (n + 1) := by
  rw [wideStep, msbStep_eq_xor (wideWidth_le hw) (fitsWidth_shiftLeft hp), pendingBits_top hw b hn, pendingBits_succ hw,
    BitVec.xor_comm]
  cases b.getLsbD (7 - n) <;> simp

end

/-! ## The whole feed -/

section
variable {w : Nat} (hw : LegalWidth w) {p : Word} (hp : FitsWidth w p)
include hw hp

/-- After `n` steps the wide register is the serial register, shifted to its top, and the pending bits. -/
theorem wideStep_iterate_eq_serial (r : Word) (b : Byte) {n : Nat} (hn : n ≤ 8) : (wideStep w p)^[n] (wideReg w r b) =
    ((List.range n).foldl (bitSerialStep w p b) r <<< (8 - w)) ^^^ pendingBits w b n := by
  induction n with
  | zero => rw [pendingBits_zero hw.2]; rfl
  | succ n ih =>
    have hlin := (msbStep_xor (wideWidth_le hw.2) (p <<< (8 - w))).eq
    rw [Function.iterate_succ_apply', ih (by omega), List.range_succ, List.foldl_append, List.foldl_cons, List.foldl_nil,
      bitSerialStep_eq hw.2 hp, BitVec.shiftLeft_xor_distrib, BitVec.xor_assoc,
      ← wideStep_pendingBits hw.2 b hp (by omega), ← msbStep_shiftLeft hw.1 (wideWidth_le hw.2)]
    exact hlin _ _

theorem msbFeed_eq_serial {r : Word} (hr : FitsWidth w r) (b : Byte) :
    msbFeed w p r b = (List.range 8).foldl (bitSerialStep w p b) r := by
  have hfits : FitsWidth w ((List.range 8).foldl (bitSerialStep w p b) r) :=
    List.foldlRecOn _ _ hr fun r' _ n _ => bitSerialStep_fitsWidth hw.2 hp b r' n
  rw [msbFeed_eq_wide, wideStep_iterate_eq_serial hw hp r b (Nat.le_refl 8), pendingBits_eight hw.2, BitVec.xor_zero,
    shiftLeft_shiftRight_of_fitsWidth (wideWidth_le hw.2) hfits]

end

/-- Settles O28, by the loop invariant `wideStep_iterate_eq_serial`. -/
theorem msbFeedIsBitSerial : Obligations.MsbFeedIsBitSerial :=
  fun _ _ _ b hw hp hr => msbFeed_eq_serial hw hp hr b

end Sys2Proof.Machine
end

section
/-! SUPPORT. The two engines of the reference engine (41_reference_engine.md R133, R136): the LSB feed is the reflected MSB
feed, so the LSB engine's register is at every byte the reflection of the MSB engine's (R138, law 2). -/

namespace Sys2Proof.Machine

/-! ## Reflection of shifted values and of bytes -/

/-- Reflection in a register wider by `s` bits undoes the shift to its top. -/
theorem reflect_shiftLeft {w s : Nat} (h : w + s ≤ 64) (a : Word) : reflect (a <<< s) (w + s) = reflect a w := by
  refine BitVec.eq_of_getLsbD_eq fun j hj => ?_
  rw [reflect_getLsbD _ h, reflect_getLsbD _ (show w ≤ 64 by omega), shiftLeft_getLsbD_of_lt a s (by omega)]
  by_cases hjw : j < w
  · rw [decide_eq_true hjw, decide_eq_true (show j < w + s by omega), decide_eq_true (show s ≤ w + s - 1 - j by omega),
      show w + s - 1 - j - s = w - 1 - j by omega, Bool.true_and, Bool.true_and]
  · by_cases hjs : j < w + s
    · simp [hjw, show ¬ s ≤ w + s - 1 - j by omega]
    · simp [hjw, hjs]

/-- The reflection of a register's top `w` bits is the low part of the register's reflection. -/
theorem reflect_shiftRight {w s : Nat} (h : w + s ≤ 64) (a : Word) :
    reflect (a >>> s) w = reflect a (w + s) &&& mask w := by
  have hw : w ≤ 64 := by omega
  refine BitVec.eq_of_getLsbD_eq fun j _ => ?_
  rw [BitVec.getLsbD_and, mask_getLsbD hw, reflect_getLsbD _ hw, reflect_getLsbD _ h, BitVec.getLsbD_ushiftRight]
  by_cases hj : j < w
  · simp [hj, show j < w + s by omega, show s + (w - 1 - j) = w + s - 1 - j by omega]
  · simp [hj]

theorem reflectByte_setWidth (b : Byte) : (reflectByte b).setWidth 64 = reflect (b.setWidth 64) 8 := by
  refine BitVec.eq_of_getLsbD_eq fun j hj => ?_
  rw [reflectByte, BitVec.getLsbD_setWidth, BitVec.getLsbD_setWidth, reflect_getLsbD _ (by decide), decide_eq_true hj,
    Bool.true_and, ← Bool.and_assoc, Bool.and_self]

theorem reflectByte_reflectByte (b : Byte) : reflectByte (reflectByte b) = b := by
  rw [reflectByte, reflectByte_setWidth, reflect_reflect (by decide) (byte_fitsWidth (Nat.le_refl 8) b),
    BitVec.setWidth_setWidth_of_le _ (by decide), BitVec.setWidth_eq]

/-- The two conventions take every byte in opposite bit orders (R133, R136). -/
theorem reflectByte_msbByte (refin : Bool) (b : Byte) : reflectByte (msbByte refin b) = lsbByte refin b := by
  cases refin with
  | false => rfl
  | true => exact reflectByte_reflectByte b

/-! ## Duality of the feeds -/

theorem reflect_wideReg {w : Nat} (hw : w ≤ 64) (r : Word) (b : Byte) :
    reflect (wideReg w r b) (w + (8 - w)) = reflect r w ^^^ (reflectByte b).setWidth 64 := by
  have hbyte : reflect (b.setWidth 64 <<< (w - 8)) (w + (8 - w)) = (reflectByte b).setWidth 64 := by
    rw [wideWidth_eq, reflect_shiftLeft (by omega), reflectByte_setWidth]
  rw [wideReg, reflect_xor (wideWidth_le hw), reflect_shiftLeft (wideWidth_le hw), hbyte]

/-- The reflected MSB feed is the LSB feed of the reflected register, polynomial and byte, for every width. -/
theorem reflect_msbFeed {w : Nat} (hw : LegalWidth w) (p r : Word) (b : Byte) :
    reflect (msbFeed w p r b) w = lsbFeed w (reflect p w) (reflect r w) (reflectByte b) := by
  have hwide : LegalWidth (w + (8 - w)) := ⟨Nat.le_add_right_of_le hw.1, wideWidth_le hw.2⟩
  have hsteps := ((reflect_msbStep hwide (p <<< (8 - w))).iterate_right 8).eq (wideReg w r b)
  rw [reflect_shiftLeft hwide.2, reflect_wideReg hw.2] at hsteps
  rw [msbFeed_eq_wide, reflect_shiftRight hwide.2, lsbFeed]
  exact congrArg (· &&& mask w) hsteps

/-! ## The registers of the engines after a message -/

/-- The register of the MSB engine after a message (R133, before the result is reflected). -/
def msbRegister (P : Params) (M : List Byte) : Word := M.foldl (fun r b => msbFeed P.w P.poly r (msbByte P.refin b)) P.init

/-- The register of the LSB engine after a message (R136, before the result is reflected). -/
def lsbRegister (P : Params) (M : List Byte) : Word :=
  M.foldl (fun r b => lsbFeed P.w (reflect P.poly P.w) r (lsbByte P.refin b)) (reflect P.init P.w)

theorem refMsb_eq (P : Params) (M : List Byte) :
    refMsb P M = (if P.refout then reflect (msbRegister P M) P.w else msbRegister P M) ^^^ P.xorout := rfl

theorem refLsb_eq (P : Params) (M : List Byte) :
    refLsb P M = (if P.refout then lsbRegister P M else reflect (lsbRegister P M) P.w) ^^^ P.xorout := rfl

section
variable {P : Params} (hP : LegalParams P) (M : List Byte)
include hP

theorem msbRegister_fitsWidth : FitsWidth P.w (msbRegister P M) := by
  obtain ⟨hw, -, hinit, -⟩ := hP
  exact List.foldlRecOn _ _ hinit fun r _ b _ => msbFeed_fitsWidth hw.2 P.poly r _

theorem lsbRegister_eq_reflect : lsbRegister P M = reflect (msbRegister P M) P.w := by
  have hw : LegalWidth P.w := hP.1
  refine List.foldl_hom (reflect · P.w) fun r b => ?_
  rw [reflect_msbFeed hw, reflectByte_msbByte]

/-- R138, law 2: where the MSB engine reflects its register the LSB engine's already is reflected, and the other way round. -/
theorem refMsb_eq_refLsb : refMsb P M = refLsb P M := by
  have hw : LegalWidth P.w := hP.1
  rw [refMsb_eq, refLsb_eq, lsbRegister_eq_reflect hP, reflect_reflect hw.2 (msbRegister_fitsWidth hP M)]

theorem refMsb_fitsWidth : FitsWidth P.w (refMsb P M) := by
  have ⟨hw, _, _, hxorout⟩ := hP
  rw [refMsb_eq]
  refine fitsWidth_xor ?_ hxorout
  split
  · exact reflect_fitsWidth hw.2 _
  · exact msbRegister_fitsWidth hP M

end

/-- Settles O26: by induction on the message the LSB register is the reflected MSB register. -/
theorem msbAndLsbEnginesAgree : Obligations.MsbAndLsbEnginesAgree := fun _ M hP => refMsb_eq_refLsb hP M

/-- Settles O24: the MSB result fits, and the LSB result is the same. -/
theorem referenceResultsFitTheWidth : Obligations.ReferenceResultsFitTheWidth :=
  fun _ M hP => ⟨refMsb_fitsWidth hP M, refMsb_eq_refLsb hP M ▸ refMsb_fitsWidth hP M⟩

/-- Settles O27: the MSB engine has only `init` to reflect, and the LSB engine agrees. -/
theorem referenceOfTheEmptyMessage : Obligations.ReferenceOfTheEmptyMessage :=
  fun P hP => ⟨refMsb_eq P [], (refMsb_eq_refLsb hP []).symm.trans (refMsb_eq P [])⟩

end Sys2Proof.Machine
end

section
/-! SUPPORT. The commands REF_MSB, REF_LSB and REF_CRC (41_reference_engine.md R139 to R141). -/

namespace Sys2Proof.Machine

/-! ## The words of an opcode whose command carries no field (R93, R96) -/

theorem decodeM_toOption (c : CmdWord) (i : Instr) :
    (decodeM c i).toOption = if c.toNat % 2 ^ 24 = 0 then some i else none := by
  have hfield : c.extractLsb' 0 24 = 0#24 ↔ c.toNat % 2 ^ 24 = 0 :=
    (extractLsb'_high_eq_zero_iff c rfl).trans Nat.lt_one_iff
  rw [decodeM]
  simp only [hfield]
  split <;> rfl

/-- Of an opcode of format M only the word with `CMD[23:0]` = 0 is a command. -/
theorem commandWords_of_decodeM (opc : BitVec 8) (i : Instr) (h : ∀ c, opcodeOf c = opc → decode c = decodeM c i) :
    CommandWords opc.toNat (fun f => if f = 0 then some i else none) :=
  commandWords_of_decode opc fun c hc => by rw [h c hc, decodeM_toOption]

/-! ## The answers -/

section
variable {s : State} (hs : s.paramsValid = true)
include hs

theorem exec_refMsb_of_valid : exec .refMsb s = .next (answered (refMsb (params s) (msg s)) s) :=
  (if_pos hs).trans (respond_eq _ s)

theorem exec_refLsb_of_valid : exec .refLsb s = .next (answered (refLsb (params s) (msg s)) s) :=
  (if_pos hs).trans (respond_eq _ s)

theorem exec_refCrc_of_valid : exec .refCrc s = .next (answered (refCrc (params s) (msg s)) s) :=
  (if_pos hs).trans (respond_eq _ s)

end

theorem refCrc_of_refin {P : Params} (h : P.refin = true) (M : List Byte) : refCrc P M = refLsb P M := if_pos h

theorem refCrc_of_not_refin {P : Params} (h : P.refin = false) (M : List Byte) : refCrc P M = refMsb P M :=
  if_neg (Bool.eq_false_iff.mp h)

/-- Settles O19, from the row of opcode 0x20 in the decoder and the two cases of PARAMS_VALID. -/
theorem refMsbAnswersTheMsbCrc : Obligations.RefMsbAnswersTheMsbCrc :=
  ⟨commandWords_of_decodeM 0x20#8 .refMsb fun c hc => by simp [decode, hc],
    fun _ => ⟨fun hs => exec_of_notConfigured hs (by decide), exec_refMsb_of_valid⟩⟩

/-- Settles O20, from the row of opcode 0x21 in the decoder and the two cases of PARAMS_VALID. -/
theorem refLsbAnswersTheLsbCrc : Obligations.RefLsbAnswersTheLsbCrc :=
  ⟨commandWords_of_decodeM 0x21#8 .refLsb fun c hc => by simp [decode, hc],
    fun _ => ⟨fun hs => exec_of_notConfigured hs (by decide), exec_refLsb_of_valid⟩⟩

/-- Settles O21, from the row of opcode 0x22 in the decoder and the dispatch of R137. -/
theorem refCrcAnswersTheSelectedCrc : Obligations.RefCrcAnswersTheSelectedCrc :=
  ⟨commandWords_of_decodeM 0x22#8 .refCrc fun c hc => by simp [decode, hc],
    fun s => ⟨fun hs => exec_of_notConfigured hs (by decide),
      fun hs hrefin => refCrc_of_refin (P := params s) hrefin (msg s) ▸ exec_refCrc_of_valid hs,
      fun hs hrefin => refCrc_of_not_refin (P := params s) hrefin (msg s) ▸ exec_refCrc_of_valid hs⟩⟩

end Sys2Proof.Machine
end

section
/-! SUPPORT. The contribution of one byte to the reference engines (42_table_builder.md R150): it is linear in the byte,
and that of a single bit is the running value which the constructions (R151, R152) have when they come to that bit. -/

namespace Sys2Proof.Machine

theorem fitsWidth_zero (w : Nat) : FitsWidth w 0 := Nat.two_pow_pos w

/-! ## The contributions are linear in the byte (R138, law 5) -/

theorem msbFeed_zero_xor {w : Nat} (hw : w ≤ 64) (p : Word) (a b : Byte) :
    msbFeed w p 0 (a ^^^ b) = msbFeed w p 0 a ^^^ msbFeed w p 0 b :=
  msbFeed_xor hw p 0 0 a b

theorem lsbFeed_zero_xor (w : Nat) (rp : Word) (a b : Byte) :
    lsbFeed w rp 0 (a ^^^ b) = lsbFeed w rp 0 a ^^^ lsbFeed w rp 0 b :=
  lsbFeed_xor w rp 0 0 a b

/-- A value that is linear over XOR of the byte is 0 at the byte 0. -/
theorem eq_zero_of_xor_linear {f : Byte → Word} (hf : ∀ a b, f (a ^^^ b) = f a ^^^ f b) : f 0 = 0 := by
  have h := hf 0 0
  rwa [BitVec.xor_self, BitVec.xor_self] at h

/-! ## The first division step of the constructions (R151, R152) -/

theorem msbStep_zero (w : Nat) (p : Word) : msbStep w p 0 = 0 := by simp [msbStep]

theorem twoPow_byte_getLsbD {n : Nat} (hn : n < 8) (j : Nat) : (BitVec.twoPow 8 n).getLsbD j = decide (n = j) := by
  rw [BitVec.getLsbD_twoPow, decide_eq_true hn, Bool.true_and]

section
variable {w : Nat} (hw : LegalWidth w)
include hw

theorem topBit_getLsbD (j : Nat) : (1#64 <<< (w - 1)).getLsbD j = decide (w - 1 = j) := by
  rw [← BitVec.twoPow_eq, BitVec.getLsbD_twoPow, decide_eq_true (show w - 1 < 64 by omega), Bool.true_and]

/-- The LSB construction starts from the reflection of the bit that the MSB construction starts from. -/
theorem reflect_topBit : reflect (1#64 <<< (w - 1)) w = 1#64 := by
  have h := reflect_shiftLeft (w := 1) (s := w - 1) (by omega) 1#64
  rw [Nat.add_sub_cancel' hw.1] at h
  exact h

/-- The top bit goes out and leaves the polynomial. -/
theorem msbStep_topBit {p : Word} (hp : FitsWidth w p) : msbStep w p (1#64 <<< (w - 1)) = p := by
  refine BitVec.eq_of_getLsbD_eq fun j _ => ?_
  rw [msbStep_getLsbD hw.2, topBit_getLsbD hw, topBit_getLsbD hw, decide_eq_true rfl, Bool.true_and]
  by_cases hj : j < w
  · have hshifted : (decide (0 < j) && decide (w - 1 = j - 1)) = false := by
      rw [← Bool.decide_and]
      exact decide_eq_false (by omega)
    rw [decide_eq_true hj, hshifted, Bool.true_and, Bool.false_xor]
  · rw [decide_eq_false hj, Bool.false_and, (fitsWidth_iff_bits p).mp hp j (by omega)]

/-! ## The contribution of a single bit -/

section
variable {p : Word} (hp : FitsWidth w p)
include hp

theorem bitSerialStep_of_clear {b : Byte} {n : Nat} (hb : b.getLsbD (7 - n) = false) (r : Word) :
    bitSerialStep w p b r n = msbStep w p r := by
  rw [bitSerialStep_eq hw.2 hp, hb]
  exact BitVec.xor_zero

theorem bitSerialStep_zero_of_set {b : Byte} {n : Nat} (hb : b.getLsbD (7 - n) = true) :
    bitSerialStep w p b 0 n = p := by
  rw [bitSerialStep_eq hw.2 hp, hb, msbStep_zero]
  exact BitVec.zero_xor

/-- Until its one bit comes, the serial loop (R138, law 4) leaves the register 0. -/
theorem foldl_bitSerialStep_twoPow_before {n m : Nat} (hn : n < 8) (hm : m ≤ 7 - n) :
    (List.range m).foldl (bitSerialStep w p (BitVec.twoPow 8 n)) 0 = 0 := by
  induction m with
  | zero => rfl
  | succ m ih =>
    have hclear : (BitVec.twoPow 8 n).getLsbD (7 - m) = false :=
      (twoPow_byte_getLsbD hn _).trans (decide_eq_false (by omega))
    rw [List.range_succ, List.foldl_append, ih (by omega), List.foldl_cons, List.foldl_nil,
      bitSerialStep_of_clear hw hp hclear, msbStep_zero]

/-- From then on its register is the running value of the MSB construction. -/
theorem foldl_bitSerialStep_twoPow_after {n m : Nat} (hn : n < 8) (hm : m ≤ n) :
    (List.range (7 - n + 1 + m)).foldl (bitSerialStep w p (BitVec.twoPow 8 n)) 0
      = (msbStep w p)^[m + 1] (1#64 <<< (w - 1)) := by
  induction m with
  | zero =>
    have hset : (BitVec.twoPow 8 n).getLsbD (7 - (7 - n)) = true :=
      (twoPow_byte_getLsbD hn _).trans (decide_eq_true (by omega))
    rw [Nat.add_zero, List.range_succ, List.foldl_append, foldl_bitSerialStep_twoPow_before hw hp hn (Nat.le_refl _),
      List.foldl_cons, List.foldl_nil, bitSerialStep_zero_of_set hw hp hset]
    exact (msbStep_topBit hw hp).symm
  | succ m ih =>
    have hclear : (BitVec.twoPow 8 n).getLsbD (7 - (7 - n + 1 + m)) = false :=
      (twoPow_byte_getLsbD hn _).trans (decide_eq_false (by omega))
    rw [← Nat.add_assoc, List.range_succ, List.foldl_append, ih (by omega), List.foldl_cons, List.foldl_nil,
      bitSerialStep_of_clear hw hp hclear, Function.iterate_succ_apply' _ (m + 1)]

theorem msbFeed_zero_twoPow {n : Nat} (hn : n < 8) :
    msbFeed w p 0 (BitVec.twoPow 8 n) = (msbStep w p)^[n + 1] (1#64 <<< (w - 1)) := by
  rw [msbFeed_eq_serial hw hp (fitsWidth_zero w), ← foldl_bitSerialStep_twoPow_after hw hp hn (Nat.le_refl n),
    show 7 - n + 1 + n = 8 by omega]

end

/-- The LSB contribution of a byte is the reflected MSB contribution of the reflected byte. -/
theorem lsbFeed_zero_eq_reflect (p : Word) (b : Byte) :
    lsbFeed w (reflect p w) 0 b = reflect (msbFeed w p 0 (reflectByte b)) w := by
  rw [reflect_msbFeed hw, reflectByte_reflectByte, reflect_zero hw.2]

theorem lsbFeed_zero_twoPow {p : Word} (hp : FitsWidth w p) {n : Nat} (hn : n < 8) :
    lsbFeed w (reflect p w) 0 (BitVec.twoPow 8 (7 - n)) = (lsbStep (reflect p w))^[n + 1] 1#64 := by
  have hbit : reflectByte (BitVec.twoPow 8 (7 - n)) = BitVec.twoPow 8 n := by
    revert n; decide
  have hsteps := ((reflect_msbStep hw p).iterate_right (n + 1)).eq (1#64 <<< (w - 1))
  rwa [reflect_topBit hw, ← msbFeed_zero_twoPow hw hp hn, ← hbit, ← lsbFeed_zero_eq_reflect hw] at hsteps

/-- With the polynomial 0 no byte contributes anything. -/
theorem msbFeed_zero_poly_zero (b : Byte) : msbFeed w 0 0 b = 0 := by
  rw [msbFeed_eq_serial hw (fitsWidth_zero w) (fitsWidth_zero w)]
  refine List.foldlRecOn (motive := (· = 0)) _ _ rfl fun r hr n _ => ?_
  rw [hr]
  cases hb : b.getLsbD (7 - n) with
  | false => rw [bitSerialStep_of_clear hw (fitsWidth_zero w) hb, msbStep_zero]
  | true => exact bitSerialStep_zero_of_set hw (fitsWidth_zero w) hb

theorem lsbFeed_zero_poly_zero (b : Byte) : lsbFeed w (reflect 0 w) 0 b = 0 := by
  rw [lsbFeed_zero_eq_reflect hw, msbFeed_zero_poly_zero hw, reflect_zero hw.2]

end

end Sys2Proof.Machine
end

section
/-! SUPPORT. The doubling constructions of the table builder (42_table_builder.md R151, R152): both visit the bits of the
byte one after another, and the pass of a bit writes the entries that have it from those that do not. They differ in the
division step and the order of the bits, so one proof of the contract R150 serves both. -/

namespace Sys2Proof.Machine

theorem or_eq_xor_of_and_eq_zero {x y : Byte} (h : x &&& y = 0#8) : x ||| y = x ^^^ y := by
  refine BitVec.eq_of_getLsbD_eq fun i _ => ?_
  have hi : (x.getLsbD i && y.getLsbD i) = false := by rw [← BitVec.getLsbD_and, h, BitVec.getLsbD_zero]
  rw [BitVec.getLsbD_or, BitVec.getLsbD_xor]
  cases hx : x.getLsbD i with
  | false => rw [Bool.false_or, Bool.false_xor]
  | true => rw [hx, Bool.true_and] at hi; rw [hi]; rfl

/-- A pass adds its bit to indices that do not have it, so there is no carry. -/
theorem ofNat_two_pow_add {n j : Nat} (h : j.testBit n = false) :
    BitVec.ofNat 8 (2 ^ n + j) = BitVec.twoPow 8 n ^^^ BitVec.ofNat 8 j := by
  have hpow : BitVec.ofNat 8 (2 ^ n) = BitVec.twoPow 8 n := BitVec.eq_of_toNat_eq (BitVec.toNat_twoPow 8 n).symm
  have hdisjoint : BitVec.twoPow 8 n &&& BitVec.ofNat 8 j = 0#8 := by
    rw [BitVec.twoPow_and, BitVec.getLsbD_ofNat, h, Bool.and_false]; rfl
  rw [BitVec.ofNat_add, hpow, BitVec.add_eq_or_of_and_eq_zero _ _ hdisjoint, or_eq_xor_of_and_eq_zero hdisjoint]

/-! ## The two constructions in one form -/

/-- The pass at `i` of a construction with the division step `f` and the indices `js i` (R151, R152). -/
def doublingPass (f : Word → Word) (js : Nat → List Nat) (cT : Word × Table) (i : Nat) : Word × Table :=
  (f cT.1, fillPass (f cT.1) i (js i) cT.2)

/-- The construction from the running value `c`, which visits the bits `bit 0`, ..., `bit 7`, after `n` passes. -/
def doubling (f : Word → Word) (js : Nat → List Nat) (bit : Nat → Nat) (c : Word) (n : Nat) : Word × Table :=
  ((List.range n).map (fun m => 2 ^ bit m)).foldl (doublingPass f js) (c, Vector.replicate 256 0)

theorem doubling_succ (f : Word → Word) (js : Nat → List Nat) (bit : Nat → Nat) (c : Word) (n : Nat) :
    doubling f js bit c (n + 1) = doublingPass f js (doubling f js bit c n) (2 ^ bit n) := by
  rw [doubling, List.range_succ, List.map_append, List.foldl_append]; rfl

theorem buildMsb_eq_doubling (w : Nat) (p : Word) :
    buildMsb w p = (doubling (msbStep w p) List.range (fun n => n) (1#64 <<< (w - 1)) 8).2 := by
  have hbits : [1, 2, 4, 8, 16, 32, 64, 128] = (List.range 8).map (fun n => 2 ^ n) := by decide
  rw [buildMsb, hbits]; rfl

theorem buildLsb_eq_doubling (w : Nat) (p : Word) :
    buildLsb w p = (doubling (lsbStep (reflect p w)) lsbIndices (fun n => 7 - n) 1#64 8).2 := by
  have hbits : [128, 64, 32, 16, 8, 4, 2, 1] = (List.range 8).map (fun n => 2 ^ (7 - n)) := by decide
  rw [buildLsb, hbits]; rfl

theorem doubling_fst (f : Word → Word) (js : Nat → List Nat) (bit : Nat → Nat) (c : Word) (n : Nat) :
    (doubling f js bit c n).1 = f^[n] c := by
  induction n with
  | zero => rfl
  | succ n ih => rw [doubling_succ, doublingPass, ih, Function.iterate_succ_apply']

/-! ## The order of the passes -/

/-- The passes of a construction are in order when, with `S n` the entries that are right before pass `n`, each pass reads
right entries only, without a carry from its bit, and writes all the entries that are right after it. -/
structure PassesInOrder (bit : Nat → Nat) (js : Nat → List Nat) (S : Nat → Nat → Prop) : Prop where
  start : ∀ k < 256, S 0 k → k = 0
  reads : ∀ n < 8, ∀ j ∈ js (2 ^ bit n), j < 256 ∧ S n j ∧ j.testBit (bit n) = false
  writes : ∀ n < 8, ∀ k < 256, S (n + 1) k → S n k ∨ (2 ^ bit n ≤ k ∧ k - 2 ^ bit n ∈ js (2 ^ bit n))

/-- R151: before pass `n` the first `2^n` entries are right. -/
theorem msb_passesInOrder : PassesInOrder (fun n => n) List.range (fun n k => k < 2 ^ n) where
  start k _ hk := Nat.lt_one_iff.mp hk
  reads n hn j hj := by
    have hlt : j < 2 ^ n := List.mem_range.mp hj
    have hle : 2 ^ n ≤ 2 ^ 8 := Nat.pow_le_pow_right (by decide) hn.le
    exact ⟨by omega, hlt, Nat.testBit_lt_two_pow hlt⟩
  writes n _ k _ hk := by
    rw [List.mem_range]
    rw [pow_succ] at hk
    omega

theorem mem_lsbIndices {n j : Nat} (hn : n < 8) : j ∈ lsbIndices (2 ^ (7 - n)) ↔ j < 256 ∧ 2 ^ (8 - n) ∣ j := by
  have hcount : 128 / 2 ^ (7 - n) = 2 ^ n := by
    rw [show 128 = 2 ^ 7 from rfl, Nat.pow_div (by omega) (by decide), Nat.sub_sub_self (by omega)]
  have hstride : 2 * 2 ^ (7 - n) = 2 ^ (8 - n) := by rw [← pow_succ', show 7 - n + 1 = 8 - n by omega]
  have hall : 2 ^ n * 2 ^ (8 - n) = 256 := by rw [← pow_add, Nat.add_sub_cancel' hn.le]; rfl
  have hpos : 0 < 2 ^ (8 - n) := Nat.two_pow_pos _
  simp only [lsbIndices, List.mem_map, List.mem_range, hcount, hstride, ← hall]
  constructor
  · rintro ⟨m, hm, rfl⟩
    exact ⟨Nat.mul_lt_mul_of_pos_right hm hpos, Nat.dvd_mul_left _ _⟩
  · rintro ⟨hlt, m, rfl⟩
    rw [Nat.mul_comm] at hlt
    exact ⟨m, Nat.lt_of_mul_lt_mul_right hlt, Nat.mul_comm _ _⟩

/-- R152: before pass `n` the entries at the multiples of `2^(8 - n)` are right. -/
theorem lsb_passesInOrder : PassesInOrder (fun n => 7 - n) lsbIndices (fun n k => 2 ^ (8 - n) ∣ k) where
  start _ hk hdvd := Nat.eq_zero_of_dvd_of_lt hdvd hk
  reads n hn j hj := by
    obtain ⟨hlt, hdvd⟩ := (mem_lsbIndices hn).mp hj
    refine ⟨hlt, hdvd, ?_⟩
    obtain ⟨m, rfl⟩ := hdvd
    rw [Nat.testBit_two_pow_mul, decide_eq_false (by omega), Bool.false_and]
  writes n hn k hk hdvd := by
    have hstride : 2 ^ (8 - n) = 2 ^ (7 - n) * 2 := by rw [← pow_succ, show 7 - n + 1 = 8 - n by omega]
    rw [show 8 - (n + 1) = 7 - n by omega] at hdvd
    obtain ⟨m, rfl⟩ := hdvd
    rw [mem_lsbIndices hn, hstride]
    rcases Nat.even_or_odd' m with ⟨q, rfl | rfl⟩
    · exact .inl ⟨q, (Nat.mul_assoc _ _ _).symm⟩
    · have hrest : 2 ^ (7 - n) * (2 * q + 1) - 2 ^ (7 - n) = 2 ^ (7 - n) * 2 * q := by
        rw [Nat.mul_add_one, Nat.add_sub_cancel, Nat.mul_assoc]
      exact .inr ⟨Nat.le_mul_of_pos_right _ (Nat.succ_pos _), by omega, q, hrest⟩

/-! ## The contract (R150) -/

section
variable {f : Word → Word} {js : Nat → List Nat} {bit : Nat → Nat} {S : Nat → Nat → Prop} {c : Word} {g : Byte → Word}
  (horder : PassesInOrder bit js S) (hlin : ∀ a b, g (a ^^^ b) = g a ^^^ g b)
  (hbit : ∀ n < 8, g (BitVec.twoPow 8 (bit n)) = f^[n + 1] c)
include horder hlin hbit

/-- The loop invariant of both constructions: the entries of `S n` are the contributions of their bytes. -/
theorem entryAt_doubling {n : Nat} (hn : n ≤ 8) {k : Nat} (hk : k < 256) (hS : S n k) :
    entryAt (doubling f js bit c n).2 k = g (BitVec.ofNat 8 k) := by
  induction n generalizing k with
  | zero =>
    obtain rfl := horder.start k hk hS
    exact (eq_zero_of_xor_linear hlin).symm
  | succ n ih =>
    have hlt : n < 8 := hn
    rw [doubling_succ, doublingPass, entryAt_fillPass _ _ _ _ hk, doubling_fst,
      ← Function.iterate_succ_apply' f, passEntry]
    split
    · next h =>
      obtain ⟨hle, hmem⟩ := h
      obtain ⟨hj, hSj, hcarry⟩ := horder.reads n hlt _ hmem
      rw [ih hlt.le hj hSj, ← hbit n hlt, ← hlin, ← ofNat_two_pow_add hcarry, Nat.add_sub_cancel' hle]
    · next h => exact ih hlt.le hk ((horder.writes n hlt k hk hS).resolve_right h)

theorem tableEntry_doubling (hall : ∀ k < 256, S 8 k) (k : Byte) : tableEntry (doubling f js bit c 8).2 k = g k := by
  rw [tableEntry_eq_entryAt, entryAt_doubling horder hlin hbit (Nat.le_refl 8) k.isLt (hall _ k.isLt), BitVec.ofNat_toNat,
    BitVec.setWidth_eq]

end

section
variable {w : Nat} (hw : LegalWidth w) {p : Word} (hp : FitsWidth w p)
include hw hp

theorem tableEntry_buildMsb (k : Byte) : tableEntry (buildMsb w p) k = msbFeed w p 0 k := by
  rw [buildMsb_eq_doubling]
  exact tableEntry_doubling msb_passesInOrder (msbFeed_zero_xor hw.2 p) (fun _ hn => msbFeed_zero_twoPow hw hp hn)
    (fun _ hk => hk) k

theorem tableEntry_buildLsb (k : Byte) : tableEntry (buildLsb w p) k = lsbFeed w (reflect p w) 0 k := by
  rw [buildLsb_eq_doubling]
  exact tableEntry_doubling lsb_passesInOrder (lsbFeed_zero_xor w _) (fun _ hn => lsbFeed_zero_twoPow hw hp hn)
    (fun k _ => one_dvd k) k

end

/-- Settles O30, by the loop invariant `entryAt_doubling` of both constructions. -/
theorem tableEntriesMeetTheContract : Obligations.TableEntriesMeetTheContract :=
  fun _ _ hw hp k => ⟨tableEntry_buildMsb hw hp k, tableEntry_buildLsb hw hp k⟩

/-! ## The laws of the entries (R153) -/

/-- Settles O31: by the contract the entries are contributions, which are linear in the byte. -/
theorem tablesAreLinear : Obligations.TablesAreLinear := by
  intro shape w p hw hp a b
  cases shape with
  | msb => simp only [buildTable, tableEntry_buildMsb hw hp, msbFeed_zero_xor hw.2]
  | lsb => simp only [buildTable, tableEntry_buildLsb hw hp, lsbFeed_zero_xor]

/-- The entry of the byte whose bit takes one division step of the MSB construction. -/
theorem msbFeed_zero_one {w : Nat} (hw : LegalWidth w) {p : Word} (hp : FitsWidth w p) : msbFeed w p 0 1 = p :=
  (msbFeed_zero_twoPow hw hp (n := 0) (by decide)).trans (msbStep_topBit hw hp)

/-- The entry of the byte whose bit takes one division step of the LSB construction. -/
theorem lsbFeed_zero_128 {w : Nat} (hw : LegalWidth w) {p : Word} (hp : FitsWidth w p) :
    lsbFeed w (reflect p w) 0 128 = reflect p w := by
  rw [lsbFeed_zero_eq_reflect hw, show reflectByte 128 = 1 by decide, msbFeed_zero_one hw hp]

/-- Settles O32: law by law, each of the contribution that the contract says the entry is. -/
theorem tableEntryLaws : Obligations.TableEntryLaws := by
  intro w p hw hp
  have hz : FitsWidth w 0 := fitsWidth_zero w
  simp only [tableEntry_buildMsb hw hp, tableEntry_buildLsb hw hp, tableEntry_buildMsb hw hz, tableEntry_buildLsb hw hz]
  exact ⟨eq_zero_of_xor_linear (msbFeed_zero_xor hw.2 p), eq_zero_of_xor_linear (lsbFeed_zero_xor w _),
    msbFeed_zero_one hw hp, lsbFeed_zero_128 hw hp, fun k => ⟨msbFeed_fitsWidth hw.2 p 0 k, lsbFeed_fitsWidth hw.2 _ 0 k,
      msbFeed_zero_poly_zero hw k, lsbFeed_zero_poly_zero hw k⟩⟩

end Sys2Proof.Machine
end

section
/-! SUPPORT. The commands TBL_BUILD_MSB, TBL_BUILD_LSB, TBL_BUILD and TBL_READ (42_table_builder.md R155 to R158), and CRC
when the installed table is not bound (44_pipeline_and_control.md R196). -/

namespace Sys2Proof.Machine

/-! ## The command words (R93, R97) -/

/-- Of an opcode of format N only the word with `CMD[23:0]` = 0 is a command; its check is that of format M. -/
theorem commandWords_of_decodeN (opc : BitVec 8) (i : Instr) (h : ∀ c, opcodeOf c = opc → decode c = decodeN c i) :
    CommandWords opc.toNat (fun f => if f = 0 then some i else none) :=
  commandWords_of_decodeM opc i h

/-- R97: a field of format I below 256 is an index, and every other field is an error. -/
theorem decodeI_toOption (c : CmdWord) (mk : BitVec 8 → Instr) : (decodeI c mk).toOption =
    if c.toNat % 2 ^ 24 < 256 then some (mk (BitVec.ofNat 8 (c.toNat % 2 ^ 24))) else none := by
  have hfield : c.extractLsb' 8 16 = 0#16 ↔ c.toNat % 2 ^ 24 < 256 := extractLsb'_high_eq_zero_iff c rfl
  rw [decodeI, extractLsb'_low_eq_ofNat c (by decide)]
  simp only [hfield]
  split <;> rfl

/-! ## The builds -/

section
variable {s : State} (hs : s.paramsValid = true)
include hs

theorem exec_tblBuildMsb_of_valid :
    exec .tblBuildMsb s = .next (answered 0 (tableInstall .msb s.parWidth s.parPoly s)) := by
  rw [exec, execTblBuildMsb, if_pos hs, respond_eq]

theorem exec_tblBuildLsb_of_valid :
    exec .tblBuildLsb s = .next (answered 0 (tableInstall .lsb s.parWidth s.parPoly s)) := by
  rw [exec, execTblBuildLsb, if_pos hs, respond_eq]

theorem exec_tblBuild_of_valid :
    exec .tblBuild s = .next (answered 0 (tableInstall (shapeOfRefin s.parRefin) s.parWidth s.parPoly s)) := by
  rw [exec, execTblBuild, if_pos hs, respond_eq]

end

theorem buildTable_shapeOfRefin (refin : Bool) (w : Nat) (p : Word) :
    buildTable (shapeOfRefin refin) w p = if refin then buildLsb w p else buildMsb w p := by
  cases refin with
  | false => rfl
  | true => rfl

/-- Settles O33, from the row of opcode 0x30 in the decoder and the two cases of PARAMS_VALID. -/
theorem tblBuildMsbInstallsTheMsbTable : Obligations.TblBuildMsbInstallsTheMsbTable :=
  ⟨commandWords_of_decodeN 0x30#8 .tblBuildMsb fun c hc => by simp [decode, hc],
    fun _ => ⟨fun hs => exec_of_notConfigured hs (by decide), exec_tblBuildMsb_of_valid⟩⟩

/-- Settles O34, from the row of opcode 0x31 in the decoder and the two cases of PARAMS_VALID. -/
theorem tblBuildLsbInstallsTheLsbTable : Obligations.TblBuildLsbInstallsTheLsbTable :=
  ⟨commandWords_of_decodeN 0x31#8 .tblBuildLsb fun c hc => by simp [decode, hc],
    fun _ => ⟨fun hs => exec_of_notConfigured hs (by decide), exec_tblBuildLsb_of_valid⟩⟩

/-- Settles O35, from the row of opcode 0x32 in the decoder and the two cases of PARAMS_VALID. -/
theorem tblBuildInstallsTheSelectedTable : Obligations.TblBuildInstallsTheSelectedTable := by
  refine ⟨commandWords_of_decodeN 0x32#8 .tblBuild fun c hc => by simp [decode, hc],
    fun s => ⟨fun hs => exec_of_notConfigured hs (by decide), fun hs => ⟨_, exec_tblBuild_of_valid hs, ?_, ?_⟩⟩⟩
  · exact ⟨hs, rfl, rfl, rfl, rfl⟩
  · rw [tableInstall, buildTable_shapeOfRefin, shapeOfRefin_eq]

/-! ## TBL_READ (R158) -/

/-- Settles O36, from the row of opcode 0x33 in the decoder and the two cases of TABLE_VALID. -/
theorem tblReadAnswersTheEntry : Obligations.TblReadAnswersTheEntry :=
  ⟨commandWords_of_decode 0x33#8 fun c hc => by rw [decode_tblRead_row hc, decodeI_toOption],
    fun k _ => ⟨fun hv => exec_tblRead_of_not_valid k (Bool.eq_false_iff.mp hv),
      fun hv => ⟨_, Vector.getElem?_eq_getElem k.isLt, exec_tblRead_of_valid k hv⟩⟩⟩

/-! ## CRC with a table of the other shape (R196) -/

theorem exec_crc_of_not_matching {s : State} (hs : s.paramsValid = true) (hm : ¬ Matching (shapeOfRefin s.parRefin) s) :
    exec .crc s = .next (erred 4 s) := by
  rw [exec, execCrc, if_pos hs, if_neg (mt (tableMatches_iff _ s).mp hm)]
  exact raise_eq .noTable (by decide) s

/-- R155, R156: the build that `refin` does not select installs its table all the same. -/
theorem exec_otherBuild_of_valid {s : State} (hs : s.paramsValid = true) :
    exec (if s.parRefin then .tblBuildMsb else .tblBuildLsb) s =
      .next (answered 0 (tableInstall (shapeOfRefin (!s.parRefin)) s.parWidth s.parPoly s)) := by
  cases hr : s.parRefin with
  | false => exact exec_tblBuildLsb_of_valid hs
  | true => exact exec_tblBuildMsb_of_valid hs

theorem shapeOfRefin_not_ne (refin : Bool) : shapeOfRefin (!refin) ≠ shapeOfRefin refin := by
  cases refin <;> decide

/-- Settles O44: the other build leaves its own shape in the tag, which is not the one `refin` selects. -/
theorem foreignBuildUnbindsTheTable : Obligations.ForeignBuildUnbindsTheTable := by
  intro s s₁ s₂ hbind hcode hbuild
  have hs : s₁.paramsValid = true := exec_construction_sets_paramsValid (.inr hbind) hcode
  cases hbuild.symm.trans (exec_otherBuild_of_valid hs)
  refine exec_crc_of_not_matching hs fun hm => ?_
  obtain ⟨-, hshape, -, -⟩ := hm
  exact shapeOfRefin_not_ne s₁.parRefin hshape

end Sys2Proof.Machine
end

section
/-! SUPPORT. One byte of a table engine against one byte of the reference engine (43_table_engine.md R171 to R173). Eight LSB
steps only shift out what lies above the low byte, so a feed is the shifted register and the contribution of the index, which
is the table's entry (R150). The MSB side follows by reflection, which takes the one engine's index and shift to the other's. -/

namespace Sys2Proof.Machine

/-! ## The bits of the indices -/

theorem reflectByte_getLsbD (b : Byte) (j : Nat) : (reflectByte b).getLsbD j = (decide (j < 8) && b.getLsbD (7 - j)) := by
  rw [reflectByte, BitVec.getLsbD_setWidth, reflect_getLsbD _ (by decide), BitVec.getLsbD_setWidth,
    decide_eq_true (show 8 - 1 - j < 64 by omega), Bool.true_and, ← Bool.and_assoc, Bool.and_self]

/-- R172: the index takes the register's low byte. -/
theorem lsbIndex_getLsbD (r : Word) (b : Byte) {j : Nat} (hj : j < 8) :
    (lsbIndex r b).getLsbD j = (r.getLsbD j ^^ b.getLsbD j) := by
  simp [lsbIndex, hj, show j < 64 by omega]

/-- R171: the index takes the register's top byte, filled up with zeros from below where the width is less than 8. -/
theorem msbIndex_getLsbD (w : Nat) (r : Word) (b : Byte) {j : Nat} (hj : j < 8) :
    (msbIndex w r b).getLsbD j = ((decide (8 ≤ w + j) && r.getLsbD (w + j - 8)) ^^ b.getLsbD j) := by
  have hj64 : j < 64 := by omega
  by_cases hw : 8 ≤ w
  · simp [msbIndex, hw, hj, hj64, show 8 ≤ w + j by omega, show w - 8 + j = w + j - 8 by omega]
  · have hfill : decide (8 - w ≤ j) = decide (8 ≤ w + j) := decide_eq_decide.mpr (by omega)
    rw [msbIndex, if_neg hw, BitVec.getLsbD_setWidth, decide_eq_true hj, Bool.true_and, BitVec.getLsbD_xor,
      shiftLeft_getLsbD_of_lt r _ hj64, hfill, BitVec.getLsbD_setWidth, decide_eq_true hj64, Bool.true_and]
    by_cases h : 8 ≤ w + j
    · rw [show j - (8 - w) = w + j - 8 by omega]
    · simp [h]

/-- The two engines look up reflected indices. -/
theorem reflectByte_msbIndex {w : Nat} (hw : w ≤ 64) (r : Word) (b : Byte) :
    reflectByte (msbIndex w r b) = lsbIndex (reflect r w) (reflectByte b) := by
  refine BitVec.eq_of_getLsbD_eq fun j hj => ?_
  have hin : decide (8 ≤ w + (7 - j)) = decide (j < w) := decide_eq_decide.mpr (by omega)
  rw [reflectByte_getLsbD, lsbIndex_getLsbD _ _ hj, msbIndex_getLsbD w r b (show 7 - j < 8 by omega), hin,
    reflectByte_getLsbD, reflect_getLsbD r hw, decide_eq_true hj, Bool.true_and, Bool.true_and,
    show w + (7 - j) - 8 = w - 1 - j by omega]

/-! ## The LSB feed as a lookup -/

/-- While the low bit is clear an LSB step is a shift (R134). -/
theorem lsbStep_iterate_of_low_bits_clear (rp : Word) (n : Nat) {r : Word} (h : ∀ j < n, r.getLsbD j = false) :
    (lsbStep rp)^[n] r = r >>> n := by
  induction n generalizing r with
  | zero => exact (BitVec.ushiftRight_zero r).symm
  | succ n ih =>
    have hstep : lsbStep rp r = r >>> 1 := if_neg (Bool.eq_false_iff.mp (h 0 n.succ_pos))
    have hclear : ∀ j < n, (r >>> 1).getLsbD j = false := fun j hj => by
      rw [BitVec.getLsbD_ushiftRight, h (1 + j) (by omega)]
    rw [Function.iterate_succ_apply, hstep, ih hclear, ← BitVec.shiftRight_add, Nat.add_comm]

/-- The byte folded into the register: the index in the low byte, and the rest of the register above it. -/
theorem xor_byte_eq_high_xor_lsbIndex (r : Word) (b : Byte) :
    r ^^^ b.setWidth 64 = (r >>> 8 <<< 8) ^^^ (lsbIndex r b).setWidth 64 := by
  refine BitVec.eq_of_getLsbD_eq fun j hj => ?_
  rw [BitVec.getLsbD_xor, BitVec.getLsbD_xor, shiftLeft_getLsbD_of_lt _ _ hj, BitVec.getLsbD_setWidth,
    BitVec.getLsbD_setWidth, BitVec.getLsbD_ushiftRight]
  by_cases h : j < 8
  · rw [lsbIndex_getLsbD r b h, decide_eq_false (Nat.not_le.mpr h), decide_eq_true hj, Bool.false_and, Bool.false_xor,
      Bool.true_and, Bool.true_and]
  · rw [Nat.add_sub_cancel' (Nat.not_lt.mp h), decide_eq_true (Nat.not_lt.mp h), BitVec.getLsbD_of_ge b j (by omega),
      BitVec.getLsbD_of_ge (lsbIndex r b) j (by omega), Bool.true_and]

theorem lsbFeed_zero_eq (w : Nat) (rp : Word) (k : Byte) :
    lsbFeed w rp 0 k = (lsbStep rp)^[8] (k.setWidth 64) &&& mask w :=
  congrArg (fun r => (lsbStep rp)^[8] r &&& mask w) BitVec.zero_xor

/-- The eight steps shift the high part down and feed the index alone. -/
theorem lsbFeed_eq_lookup (w : Nat) (rp r : Word) (b : Byte) :
    lsbFeed w rp r b = ((r >>> 8) ^^^ lsbFeed w rp 0 (lsbIndex r b)) &&& mask w := by
  have hsteps := ((lsbStep_xor rp).iterate 8).eq (r >>> 8 <<< 8) ((lsbIndex r b).setWidth 64)
  have hhigh : (lsbStep rp)^[8] (r >>> 8 <<< 8) = r >>> 8 := by
    rw [lsbStep_iterate_of_low_bits_clear rp 8 fun j hj => by simp [hj]]
    exact shiftLeft_shiftRight_of_fitsWidth (w := 56) (by decide) (fitsWidth_shiftRight r.isLt)
  rw [hhigh, ← xor_byte_eq_high_xor_lsbIndex] at hsteps
  rw [lsbFeed, hsteps, lsbFeed_zero_eq, xor_and_mask, xor_and_mask, BitVec.and_assoc, BitVec.and_self]

/-! ## The MSB feed as a lookup -/

section
variable {w : Nat} (hw : w ≤ 64)
include hw

theorem eq_of_reflect_eq {a b : Word} (ha : FitsWidth w a) (hb : FitsWidth w b) (h : reflect a w = reflect b w) : a = b := by
  rw [← reflect_reflect hw ha, h, reflect_reflect hw hb]

/-- A shift up is, in the reflected register, a shift down. -/
theorem reflect_shiftLeft_same_width (a : Word) (s : Nat) : reflect (a <<< s) w = reflect a w >>> s := by
  refine BitVec.eq_of_getLsbD_eq fun j _ => ?_
  have hin : decide (j < w ∧ s ≤ w - 1 - j) = decide (s + j < w) := decide_eq_decide.mpr (by omega)
  rw [BitVec.getLsbD_ushiftRight, reflect_getLsbD _ hw, reflect_getLsbD _ hw, shiftLeft_getLsbD_of_lt a s (by omega),
    ← Bool.and_assoc, ← Bool.decide_and, hin, Nat.sub_sub, Nat.add_comm j s, ← Nat.sub_sub]

end

section
variable {w : Nat} (hw : LegalWidth w)
include hw

/-- The MSB feed does the same with the top byte: reflected, it is the LSB feed. -/
theorem msbFeed_eq_lookup (p r : Word) (b : Byte) :
    msbFeed w p r b = ((r <<< 8) ^^^ msbFeed w p 0 (msbIndex w r b)) &&& mask w := by
  have hfits : FitsWidth w (reflect r w >>> 8 ^^^ lsbFeed w (reflect p w) 0 (lsbIndex (reflect r w) (reflectByte b))) :=
    fitsWidth_xor (reflect_shiftLeft_same_width hw.2 r 8 ▸ reflect_fitsWidth hw.2 _) (lsbFeed_fitsWidth hw.2 _ _ _)
  refine eq_of_reflect_eq hw.2 (msbFeed_fitsWidth hw.2 p r b) (and_mask_lt _ hw.2) ?_
  rw [reflect_msbFeed hw, lsbFeed_eq_lookup, and_mask_of_fitsWidth hw.2 hfits, reflect_and_mask hw.2, reflect_xor hw.2,
    reflect_shiftLeft_same_width hw.2, reflect_msbFeed hw, reflect_zero hw.2, reflectByte_msbIndex hw.2]

/-! ## The bytes of the engines -/

theorem tblMsbFeed_buildMsb {p : Word} (hp : FitsWidth w p) (r : Word) (b : Byte) :
    tblMsbFeed (buildMsb w p) w r b = msbFeed w p r b := by
  rw [tblMsbFeed, tableEntry_buildMsb hw hp, ← msbFeed_eq_lookup hw]

theorem tblLsbFeed_buildLsb {p : Word} (hp : FitsWidth w p) (r : Word) (b : Byte) :
    tblLsbFeed (buildLsb w p) w r b = lsbFeed w (reflect p w) r b := by
  rw [tblLsbFeed, tableEntry_buildLsb hw hp, ← lsbFeed_eq_lookup]

end

/-! ## On unbounded integers (R13) -/

/-- The bits that a shift of a 64-bit word drops lie above every width. -/
theorem shiftLeft_toNat_mod (r : Word) (s : Nat) {w : Nat} (hw : w ≤ 64) :
    (r <<< s).toNat % 2 ^ w = r.toNat * 2 ^ s % 2 ^ w := by
  rw [BitVec.toNat_shiftLeft, Nat.shiftLeft_eq, Nat.mod_mod_of_dvd _ (Nat.pow_dvd_pow 2 hw)]

theorem xor_mod_congr {x y : Nat} (z : Nat) {w : Nat} (h : x % 2 ^ w = y % 2 ^ w) :
    (x ^^^ z) % 2 ^ w = (y ^^^ z) % 2 ^ w := by
  rw [Nat.xor_mod_two_pow, h, ← Nat.xor_mod_two_pow]

theorem lsbIndex_toNat (r : Word) (b : Byte) : (lsbIndex r b).toNat = (r.toNat ^^^ b.toNat) % 256 := by
  rw [lsbIndex, BitVec.toNat_setWidth, BitVec.toNat_xor, BitVec.toNat_setWidth_of_le (by decide)]

theorem msbIndex_toNat (w : Nat) (r : Word) (b : Byte) : (msbIndex w r b).toNat =
    ((if 8 ≤ w then r.toNat / 2 ^ (w - 8) else r.toNat * 2 ^ (8 - w)) ^^^ b.toNat) % 256 := by
  rw [msbIndex, ← lsbIndex, lsbIndex_toNat]
  split
  · rw [BitVec.toNat_ushiftRight, Nat.shiftRight_eq_div_pow]
  · exact xor_mod_congr (w := 8) _ (shiftLeft_toNat_mod r _ (by decide))

theorem tblMsbFeed_toNat (T : Table) {w : Nat} (hw : w ≤ 64) (r : Word) (b : Byte) : (tblMsbFeed T w r b).toNat =
    ((r.toNat * 2 ^ 8) ^^^ (tableEntry T (msbIndex w r b)).toNat) % 2 ^ w := by
  rw [tblMsbFeed, and_mask_toNat _ hw, BitVec.toNat_xor]
  exact xor_mod_congr _ (shiftLeft_toNat_mod r 8 hw)

theorem tblLsbFeed_toNat (T : Table) {w : Nat} (hw : w ≤ 64) (r : Word) (b : Byte) : (tblLsbFeed T w r b).toNat =
    ((r.toNat / 2 ^ 8) ^^^ (tableEntry T (lsbIndex r b)).toNat) % 2 ^ w := by
  rw [tblLsbFeed, and_mask_toNat _ hw, BitVec.toNat_xor, BitVec.toNat_ushiftRight,
    Nat.shiftRight_eq_div_pow]

/-- Settles O40: the bits that the shifts up lose lie above the index and above the mask. -/
theorem tableByteStepsOnUnboundedIntegers : Obligations.TableByteStepsOnUnboundedIntegers := fun T w r b hw _ =>
  ⟨msbIndex_toNat w r b, tblMsbFeed_toNat T hw.2 r b, lsbIndex_toNat r b, tblLsbFeed_toNat T hw.2 r b⟩

end Sys2Proof.Machine
end

section
/-! SUPPORT. The table engines over a whole message (43_table_engine.md R173) and their commands TBL_MSB and TBL_LSB (R174,
R175). -/

namespace Sys2Proof.Machine

/-! ## Over its own table each engine is the reference engine (R173, laws 1 to 3) -/

section
variable {P : Params} (hP : LegalParams P) (M : List Byte)
include hP

theorem tblMsb_buildMsb : tblMsb (buildMsb P.w P.poly) P M = refMsb P M := by
  have ⟨hw, hpoly, _, _⟩ := hP
  simp only [tblMsb, refMsb, tblMsbFeed_buildMsb hw hpoly]

theorem tblLsb_buildLsb : tblLsb (buildLsb P.w P.poly) P M = refLsb P M := by
  have ⟨hw, hpoly, _, _⟩ := hP
  simp only [tblLsb, refLsb, tblLsbFeed_buildLsb hw hpoly]

end

/-- Settles O41: byte by byte each table engine keeps the register of its reference engine, and those two agree. -/
theorem tableEnginesEqualReferenceEngines : Obligations.TableEnginesEqualReferenceEngines := fun P M hP =>
  ⟨tblMsb_buildMsb hP M, tblLsb_buildLsb hP M,
    calc tblMsb (buildMsb P.w P.poly) P M
      _ = refMsb P M := tblMsb_buildMsb hP M
      _ = refLsb P M := refMsb_eq_refLsb hP M
      _ = tblLsb (buildLsb P.w P.poly) P M := (tblLsb_buildLsb hP M).symm⟩

/-! ## Over any table (R173, laws 4 and 5) -/

section
variable (T : Table) {P : Params} (hP : LegalParams P) (M : List Byte)
include hP

theorem tblMsb_fitsWidth : FitsWidth P.w (tblMsb T P M) := by
  have ⟨hw, _, hinit, hxorout⟩ := hP
  have hreg : FitsWidth P.w (M.foldl (fun r b => tblMsbFeed T P.w r (msbByte P.refin b)) P.init) :=
    List.foldlRecOn _ _ hinit fun _ _ _ _ => and_mask_lt _ hw.2
  exact fitsWidth_xor (iteInduction (fun _ => reflect_fitsWidth hw.2 _) fun _ => hreg) hxorout

theorem tblLsb_fitsWidth : FitsWidth P.w (tblLsb T P M) := by
  have ⟨hw, _, _, hxorout⟩ := hP
  have hreg : FitsWidth P.w (M.foldl (fun r b => tblLsbFeed T P.w r (lsbByte P.refin b)) (reflect P.init P.w)) :=
    List.foldlRecOn _ _ (reflect_fitsWidth hw.2 _) fun _ _ _ _ => and_mask_lt _ hw.2
  exact fitsWidth_xor (iteInduction (fun _ => hreg) fun _ => reflect_fitsWidth hw.2 _) hxorout

end

theorem tblMsb_nil (T : Table) (P : Params) : tblMsb T P [] = refMsb P [] := rfl

theorem tblLsb_nil (T : Table) (P : Params) : tblLsb T P [] = refLsb P [] := rfl

/-- Settles O42: the mask of each byte bounds the register, and with no byte the engines are the reference engines. -/
theorem tableEngineRangeAndEmptyMessage : Obligations.TableEngineRangeAndEmptyMessage := by
  intro T P M hP
  rw [tblMsb_nil, tblLsb_nil]
  exact ⟨tblMsb_fitsWidth T hP M, tblLsb_fitsWidth T hP M, referenceOfTheEmptyMessage P hP⟩

/-! ## The commands (R174, R175) -/

section
variable {s : State} (hs : s.paramsValid = true)
include hs

theorem exec_tblMsb_of_not_matching (hm : ¬ Matching .msb s) : exec .tblMsb s = .next (erred 4 s) := by
  rw [exec, execTblMsb, if_pos hs, if_neg (mt (tableMatches_iff _ s).mp hm)]
  exact raise_eq .noTable (by decide) s

theorem exec_tblLsb_of_not_matching (hm : ¬ Matching .lsb s) : exec .tblLsb s = .next (erred 4 s) := by
  rw [exec, execTblLsb, if_pos hs, if_neg (mt (tableMatches_iff _ s).mp hm)]
  exact raise_eq .noTable (by decide) s

theorem exec_tblMsb_of_matching (hm : Matching .msb s) :
    exec .tblMsb s = .next (answered (tblMsb s.table (params s) (msg s)) s) := by
  rw [exec, execTblMsb, if_pos hs, if_pos ((tableMatches_iff _ s).mpr hm), respond_eq]

theorem exec_tblLsb_of_matching (hm : Matching .lsb s) :
    exec .tblLsb s = .next (answered (tblLsb s.table (params s) (msg s)) s) := by
  rw [exec, execTblLsb, if_pos hs, if_pos ((tableMatches_iff _ s).mpr hm), respond_eq]

end

/-- Settles O37, from the row of opcode 0x40 in the decoder and the two checks of R174. -/
theorem tblMsbAnswersTheTableCrc : Obligations.TblMsbAnswersTheTableCrc :=
  ⟨commandWords_of_decodeM 0x40#8 .tblMsb fun c hc => by simp [decode, hc],
    fun _ => ⟨fun hs => exec_of_notConfigured hs (by decide), exec_tblMsb_of_not_matching, exec_tblMsb_of_matching⟩⟩

/-- Settles O38, from the row of opcode 0x41 in the decoder and the two checks of R175. -/
theorem tblLsbAnswersTheTableCrc : Obligations.TblLsbAnswersTheTableCrc :=
  ⟨commandWords_of_decodeM 0x41#8 .tblLsb fun c hc => by simp [decode, hc],
    fun _ => ⟨fun hs => exec_of_notConfigured hs (by decide), exec_tblLsb_of_not_matching, exec_tblLsb_of_matching⟩⟩

end Sys2Proof.Machine
end

section
/-! SUPPORT. The control commands NOP, RDCSR, WRCSR, CONFIGURE and BIND (44_pipeline_and_control.md R190 to R195). -/

namespace Sys2Proof.Machine

/-! ## NOP (R190) -/

theorem exec_nop (s : State) : exec .nop s = .next (answered 0 s) := respond_eq 0 s

/-- Settles O11, from the row of opcode 0x00 in the decoder. -/
theorem nopDoesNothing : Obligations.NopDoesNothing :=
  ⟨commandWords_of_decodeN 0x00#8 .nop fun c hc => by simp [decode, hc], exec_nop⟩

/-! ## The command words that carry a CSR number (R94) -/

/-- R94: a field of format C below `2^12` is a CSR number, and every other field is an error. -/
theorem decodeC_toOption (c : CmdWord) (mk : BitVec 12 → Instr) : (decodeC c mk).toOption =
    if c.toNat % 2 ^ 24 < 2 ^ 12 then some (mk (BitVec.ofNat 12 (c.toNat % 2 ^ 24))) else none := by
  have hfield : c.extractLsb' 12 12 = 0#12 ↔ c.toNat % 2 ^ 24 < 2 ^ 12 := extractLsb'_high_eq_zero_iff c rfl
  rw [decodeC, extractLsb'_low_eq_ofNat c (by decide)]
  simp only [hfield]
  split <;> rfl

/-- R36: an unassigned number is none of the fifteen. -/
theorem ne_assigned_of_csrNamed_eq_none {n : BitVec 12} (h : csrNamed n = none) :
    n ≠ 0x000 ∧ n ≠ 0x001 ∧ n ≠ 0x002 ∧ n ≠ 0x003 ∧ n ≠ 0x004 ∧ n ≠ 0x005 ∧ n ≠ 0x011 ∧ n ≠ 0x012 ∧ n ≠ 0x013 ∧
      n ≠ 0x014 ∧ n ≠ 0x015 ∧ n ≠ 0x020 ∧ n ≠ 0x021 ∧ n ≠ 0x022 ∧ n ≠ 0x023 := by
  have hne : ∀ r, n ≠ csrNumber r := fun r hr => by simp [hr] at h
  exact ⟨hne .id, hne .cfgWidth, hne .cfgPoly, hne .cfgInit, hne .cfgXorout, hne .cfgFlags, hne .parWidth, hne .parPoly,
    hne .parInit, hne .parXorout, hne .parFlags, hne .status, hne .tblWidth, hne .tblPoly, hne .tblEntryBytes⟩

/-! ## The composed registers as numbers (R39, R41, R47) -/

theorem bitWord_eq_ofNat (b : Bool) : bitWord b = BitVec.ofNat 64 b.toNat := by
  cases b <;> rfl

/-- A field put in place above the bits that a register has so far adds its number, times the place. -/
theorem ofNat_or_shiftLeft {a b k : Nat} (ha : a < 2 ^ k) :
    BitVec.ofNat 64 a ||| (BitVec.ofNat 64 b <<< k) = BitVec.ofNat 64 (a + 2 ^ k * b) := by
  have hplace : BitVec.ofNat 64 b <<< k = BitVec.ofNat 64 (2 ^ k * b) := by
    refine BitVec.eq_of_toNat_eq ?_
    rw [BitVec.toNat_shiftLeft, BitVec.toNat_ofNat, BitVec.toNat_ofNat, Nat.shiftLeft_eq, Nat.mod_mul_mod, Nat.mul_comm]
  rw [hplace, BitVec.or_comm, ← BitVec.ofNat_or, ← Nat.two_pow_add_eq_or_of_lt ha, Nat.add_comm]

/-- R39, R41: REFIN in bit 0 and REFOUT in bit 1. -/
theorem flagsWord_eq_ofNat (refin refout : Bool) :
    flagsWord refin refout = BitVec.ofNat 64 (refin.toNat + 2 * refout.toNat) := by
  rw [flagsWord, bitWord_eq_ofNat, bitWord_eq_ofNat, ofNat_or_shiftLeft refin.toNat_lt]
  rfl

theorem shapeBit_toNat (shape : Shape) : (shapeBit shape).toNat = if shape = .lsb then 1 else 0 := by
  cases shape <;> rfl

/-- R47: the four flags in bits 0 to 3 and LAST_CODE from bit 8 upward. -/
theorem statusWord_eq_ofNat (s : State) : statusWord s = BitVec.ofNat 64 (s.paramsValid.toNat + 2 * s.tableValid.toNat
    + 4 * (if s.tblShape = .lsb then 1 else 0) + 8 * s.err.toNat + 256 * s.lastCode.toNat) := by
  have hparams := s.paramsValid.toNat_lt
  have htable := s.tableValid.toNat_lt
  have hshape := (shapeBit s.tblShape).toNat_lt
  have herr := s.err.toNat_lt
  rw [← shapeBit_toNat, statusWord]
  simp only [bitWord_eq_ofNat, ← BitVec.ofNat_toNat]
  rw [ofNat_or_shiftLeft (by omega), ofNat_or_shiftLeft (by omega), ofNat_or_shiftLeft (by omega),
    ofNat_or_shiftLeft (by omega)]
  rfl

/-! ## RDCSR (R191) -/

/-- Settles O12, one register at a time. -/
theorem rdcsrReadsTheNamedRegister : Obligations.RdcsrReadsTheNamedRegister := by
  refine ⟨commandWords_of_decode 0x01#8 fun c hc => by rw [decode_rdcsr_row hc, decodeC_toOption], fun n s => ?_⟩
  cases hn : csrNamed n with
  | none => simp only [exec_rdcsr_unassigned hn, ne_assigned_of_csrNamed_eq_none hn, if_false]
  | some r =>
    obtain rfl := csrNamed_eq_some.mp hn
    rw [exec_rdcsr_csrNumber]
    cases r with
    | cfgFlags | parFlags => rw [readCsr, flagsWord_eq_ofNat]; rfl
    | status => rw [readCsr, statusWord_eq_ofNat]; rfl
    | tblEntryBytes => rw [readCsr, Nat.shiftRight_eq_div_pow]; rfl
    | _ => rfl

/-! ## WRCSR (R192) -/

theorem exec_wrcsr_csrNumber_of_some {r : Csr} {s s' : State} (h : writeCsr r (opa s) s = some s') :
    exec (.wrcsr (csrNumber r)) s = .next (answered 0 s') := by
  simp [exec, execWrcsr, h, respond_eq]

/-- R36: a read-only register. -/
theorem exec_wrcsr_csrNumber_of_none {r : Csr} {s : State} (h : writeCsr r (opa s) s = none) :
    exec (.wrcsr (csrNumber r)) s = .next (erred 2 s) := by
  simp [exec, execWrcsr, h, raise_eq, codeNumber]

theorem getLsbD_eq_decide (v : Word) (i : Nat) : v.getLsbD i = decide (v.toNat / 2 ^ i % 2 = 1) :=
  Nat.testBit_eq_decide_div_mod_eq

/-- R39: the write of the flags takes bits 0 and 1 of the operand. -/
theorem writeCsr_cfgFlags (v : Word) (s : State) : writeCsr .cfgFlags v s = some { s with
    cfgRefin := decide (v.toNat % 2 = 1), cfgRefout := decide (v.toNat / 2 % 2 = 1) } := by
  rw [writeCsr, getLsbD_eq_decide, getLsbD_eq_decide, pow_zero, Nat.div_one, pow_one]

/-- R48: the write of STATUS clears ERR by bit 3 of the operand. -/
theorem writeCsr_status (v : Word) (s : State) :
    writeCsr .status v s = some (if v.toNat / 8 % 2 = 1 then { s with err := false } else s) := by
  rw [writeCsr, errAfterStatusWrite, getLsbD_eq_decide]
  by_cases hbit : v.toNat / 8 % 2 = 1 <;> simp [hbit]

/-- Settles O14, one register at a time: the write of the register, or none where it is read-only. -/
theorem wrcsrWritesTheNamedRegister : Obligations.WrcsrWritesTheNamedRegister := by
  refine ⟨commandWords_of_decode 0x02#8 fun c hc => by rw [decode_wrcsr_row hc, decodeC_toOption], fun n s => ?_⟩
  cases hn : csrNamed n with
  | none => simp only [exec_wrcsr_unassigned hn, ne_assigned_of_csrNamed_eq_none hn, if_false]
  | some r =>
    obtain rfl := csrNamed_eq_some.mp hn
    cases r with
    | cfgWidth | cfgPoly | cfgInit | cfgXorout => exact exec_wrcsr_csrNumber_of_some rfl
    | cfgFlags => exact exec_wrcsr_csrNumber_of_some (writeCsr_cfgFlags _ s)
    | status => exact exec_wrcsr_csrNumber_of_some (writeCsr_status _ s)
    | id | parWidth | parPoly | parInit | parXorout | parFlags | tblWidth | tblPoly | tblEntryBytes =>
      exact exec_wrcsr_csrNumber_of_none rfl

/-! ## Constructing the parameter set (R193 to R195) -/

theorem and_mask_eq_ofNat (v : Word) {w : Nat} (hw : w ≤ 64) : v &&& mask w = BitVec.ofNat 64 (v.toNat % 2 ^ w) := by
  rw [← and_mask_toNat v hw, BitVec.ofNat_toNat, BitVec.setWidth_eq]

theorem not_legalWidth_iff {w : Nat} : ¬ LegalWidth w ↔ w < 1 ∨ 64 < w := by
  unfold LegalWidth
  omega

/-- R193 as it is written for numbers: the masks are reductions modulo `2^w`. -/
theorem withConstructed_eq_mod {s : State} (hw : LegalWidth s.cfgWidth.toNat) : withConstructed s = { s with
    parWidth := s.cfgWidth
    parPoly := BitVec.ofNat 64 (s.cfgPoly.toNat % 2 ^ s.cfgWidth.toNat)
    parInit := BitVec.ofNat 64 (s.cfgInit.toNat % 2 ^ s.cfgWidth.toNat)
    parXorout := BitVec.ofNat 64 (s.cfgXorout.toNat % 2 ^ s.cfgWidth.toNat)
    parRefin := s.cfgRefin
    parRefout := s.cfgRefout
    paramsValid := true } := by
  simp only [withConstructed, and_mask_eq_ofNat _ hw.2]

section
variable {s : State}

theorem exec_configure_of_illegalWidth (hw : ¬ LegalWidth s.cfgWidth.toNat) :
    exec .configure s = .next (erred 1 s) :=
  ((exec_configure_cases s).resolve_right fun ⟨hw', _⟩ => hw hw').2

theorem exec_configure_of_legalWidth (hw : LegalWidth s.cfgWidth.toNat) :
    exec .configure s = .next (answered 0 (withConstructed s)) :=
  ((exec_configure_cases s).resolve_left fun ⟨hw', _⟩ => hw' hw).2

theorem exec_bind_of_illegalWidth (hw : ¬ LegalWidth s.cfgWidth.toNat) : exec .bind s = .next (erred 1 s) :=
  ((exec_bind_cases s).resolve_right fun ⟨hw', _⟩ => hw hw').2

theorem exec_bind_of_legalWidth (hw : LegalWidth s.cfgWidth.toNat) :
    exec .bind s = .next (answered 0 (tableInstall (shapeOfRefin s.cfgRefin) s.cfgWidth (withConstructed s).parPoly
      (withConstructed s))) :=
  ((exec_bind_cases s).resolve_left fun ⟨hw', _⟩ => hw' hw).2

end

/-- Settles O15, from the row of opcode 0x03 in the decoder and the width check; masking is reduction modulo `2^w`. -/
theorem configureConstructsTheParameterSet : Obligations.ConfigureConstructsTheParameterSet :=
  ⟨commandWords_of_decodeN 0x03#8 .configure fun c hc => by simp [decode, hc],
    fun _ => ⟨fun hw => exec_configure_of_illegalWidth (not_legalWidth_iff.mpr hw),
      fun hw => withConstructed_eq_mod hw ▸ exec_configure_of_legalWidth hw⟩⟩

/-- Settles O16, from the row of opcode 0x04 in the decoder and the width check, with the table that `refin` selects. -/
theorem bindConstructsAndBuilds : Obligations.BindConstructsAndBuilds := by
  refine ⟨commandWords_of_decodeN 0x04#8 .bind fun c hc => by simp [decode, hc],
    fun s => ⟨fun hw => exec_bind_of_illegalWidth (not_legalWidth_iff.mpr hw), fun hw => ?_⟩⟩
  rw [exec_bind_of_legalWidth hw, withConstructed_eq_mod hw, tableInstall, buildTable_shapeOfRefin, shapeOfRefin_eq]

end Sys2Proof.Machine
end

section
/-! SUPPORT. CRC over the bound table (44_pipeline_and_control.md R196), and the pipeline law (R197): the active set and the
table with its tag stay as BIND left them along every run that keeps the binding. -/

namespace Sys2Proof.Machine

/-! ## CRC (R196) -/

theorem exec_crc_of_not_bound {s : State} (hs : s.paramsValid = true) (hb : ¬ Bound s) :
    exec .crc s = .next (erred 4 s) :=
  exec_crc_of_not_matching hs fun hm => hb ⟨hs, hm⟩

theorem exec_crc_of_bound {s : State} (hb : Bound s) : exec .crc s = .next (answered
    (if s.parRefin then tblLsb s.table (params s) (msg s) else tblMsb s.table (params s) (msg s)) s) := by
  obtain ⟨hs, hm⟩ := hb
  rw [exec, execCrc, if_pos hs, if_pos ((tableMatches_iff (shapeOfRefin s.parRefin) s).mpr hm)]
  split <;> exact respond_eq _ s

/-- Settles O39, from the row of opcode 0x42 in the decoder and the two checks of R196. -/
theorem crcAnswersWithTheBoundTable : Obligations.CrcAnswersWithTheBoundTable :=
  ⟨commandWords_of_decodeM 0x42#8 .crc fun c hc => by simp [decode, hc],
    fun _ => ⟨fun hs => exec_of_notConfigured hs (by decide), exec_crc_of_not_bound, exec_crc_of_bound⟩⟩

/-! ## The installed pipeline (R195, R197) -/

/-- What BIND installs and R197 rests on: a legal parameter set and, with its tag, the table `refin` selects for it. -/
def PipelineInstalled (s : State) : Prop :=
  s.paramsValid = true ∧ LegalParams (params s) ∧
    tableSet s = (buildTable (shapeOfRefin s.parRefin) s.parWidth.toNat s.parPoly, true, shapeOfRefin s.parRefin,
      s.parWidth, s.parPoly)

theorem params_congr {s t : State} (ha : activeSet t = activeSet s) : params t = params s := by
  simp only [activeSet, Prod.mk.injEq] at ha
  obtain ⟨-, hw, hp, hi, hx, hri, hro⟩ := ha
  simp only [params, hw, hp, hi, hx, hri, hro]

theorem PipelineInstalled.congr {s t : State} (ha : activeSet t = activeSet s) (ht : tableSet t = tableSet s)
    (h : PipelineInstalled s) : PipelineInstalled t := by
  have hparams := params_congr ha
  simp only [activeSet, Prod.mk.injEq] at ha
  obtain ⟨hv, hw, hp, -, -, hri, -⟩ := ha
  rw [PipelineInstalled, hparams, ht, hv, hw, hp, hri]
  exact h

theorem tableInstall_tableSet (shape : Shape) (w p : Word) (s : State) :
    tableSet (tableInstall shape w p s) = (buildTable shape w.toNat p, true, shape, w, p) := (rfl)

/-- R195: a BIND that succeeds installs the pipeline. -/
theorem pipelineInstalled_of_exec_bind {s t : State} (h : exec .bind s = .next t) (hcode : t.lastCode = 0) :
    PipelineInstalled t := by
  rcases exec_bind_cases s with ⟨-, he⟩ | ⟨hw, he⟩ <;> cases h.symm.trans he
  · simp at hcode
  · refine PipelineInstalled.congr (answered_activeSet _ _) (answered_tableSet _ _) ⟨?_, ?_, ?_⟩
    · simp
    · rw [tableInstall_params]; exact legalParams_withConstructed hw
    · exact tableInstall_tableSet ..

/-- R173: the engine `refin` selects, over the table `refin` selects, is the reference CRC. -/
theorem selectedEngine_buildTable {P : Params} (hP : LegalParams P) (M : List Byte) :
    (if P.refin then tblLsb (buildTable (shapeOfRefin P.refin) P.w P.poly) P M
      else tblMsb (buildTable (shapeOfRefin P.refin) P.w P.poly) P M) = refCrc P M := by
  rw [buildTable_shapeOfRefin]
  cases hr : P.refin with
  | true => exact (tblLsb_buildLsb hP M).trans (refCrc_of_refin hr M).symm
  | false => exact (tblMsb_buildMsb hP M).trans (refCrc_of_not_refin hr M).symm

/-- R196: over the installed table CRC answers the reference CRC. -/
theorem PipelineInstalled.exec_crc {s : State} (h : PipelineInstalled s) :
    exec .crc s = .next (answered (refCrc (params s) (msg s)) s) := by
  obtain ⟨hs, hlegal, htable⟩ := h
  simp only [tableSet, Prod.mk.injEq] at htable
  obtain ⟨hT, hmatching⟩ := htable
  rw [exec_crc_of_bound ⟨hs, hmatching⟩, ← selectedEngine_buildTable hlegal, hT]
  rfl

/-! ## Runs that keep the binding (R197) -/

/-- A command that constructs nothing and builds no table of the other shape keeps the active set, and leaves the table as
it was or installs the one `refin` selects. -/
theorem Effect.keeps_binding {i : Instr} {s s' : State} (e : Effect i s s') (hconf : i ≠ .configure) (hbind : i ≠ .bind)
    (hmsb : i = .tblBuildMsb → s.parRefin = false) (hlsb : i = .tblBuildLsb → s.parRefin = true) :
    activeSet s' = activeSet s ∧
      (tableSet s' = tableSet s ∨ s' = tableInstall (shapeOfRefin s.parRefin) s.parWidth s.parPoly s) := by
  cases e with
  | none | staged | statusWritten => exact ⟨rfl, .inl rfl⟩
  | constructed hi => exact absurd hi hconf
  | bound hi => exact absurd hi hbind
  | built shape hi =>
    have hshape : shape = shapeOfRefin s.parRefin := by
      rcases hi with ⟨hi, rfl⟩ | ⟨hi, rfl⟩ | ⟨-, hshape⟩
      · rw [hmsb hi]; rfl
      · rw [hlsb hi]; rfl
      · exact hshape
    exact ⟨tableInstall_activeSet .., .inr (by rw [hshape])⟩

/-- Building the selected table again installs the table that is there already. -/
theorem KeepsBinding.sameSets {s t : State} (h : KeepsBinding s t) (hs : PipelineInstalled s) :
    activeSet t = activeSet s ∧ tableSet t = tableSet s := by
  obtain ⟨c, hc, hstep, hkeep⟩ := h
  rcases step_command hc hstep with ⟨i, v, s', hi, e, rfl⟩ | ⟨k, -, -, rfl⟩
  · obtain ⟨hconf, hbind, hmsb, hlsb⟩ := hkeep rfl
    rw [hi] at hconf hbind hmsb hlsb
    obtain ⟨ha, ht⟩ := e.keeps_binding (mt (congrArg _) hconf) (mt (congrArg _) hbind) (hmsb ∘ congrArg _)
      (hlsb ∘ congrArg _)
    refine ⟨ha, ?_⟩
    rcases ht with ht | rfl
    · exact ht
    · obtain ⟨-, -, htable⟩ := hs
      exact htable.symm
  · exact ⟨rfl, rfl⟩

theorem pipeline_of_run {s t : State} (hs : PipelineInstalled s) (hrun : Relation.ReflTransGen KeepsBinding s t) :
    PipelineInstalled t ∧ params t = params s := by
  induction hrun with
  | refl => exact ⟨hs, rfl⟩
  | tail _ hstep ih =>
    obtain ⟨hinst, hparams⟩ := ih
    obtain ⟨ha, ht⟩ := hstep.sameSets hinst
    exact ⟨hinst.congr ha ht, (params_congr ha).trans hparams⟩

/-- Settles O43: BIND installs the pipeline, and no step of the run changes the active set or the table. -/
theorem pipelineAnswersTheReferenceCrc : Obligations.PipelineAnswersTheReferenceCrc := by
  intro s s₁ s₂ hbind hcode hrun
  obtain ⟨hinst, hparams⟩ := pipeline_of_run (pipelineInstalled_of_exec_bind hbind hcode) hrun
  rw [← hparams]
  exact hinst.exec_crc

end Sys2Proof.Machine
end

section
/-! SUPPORT. The completion of every command (60_exceptions.md R228, R229), and the codes each command can complete with
(R220 to R226). -/

namespace Sys2Proof.Machine

/-! ## The completion update (R228, R229) -/

/-- Settles O53: a command that completes after one of its effects has code 0, so a non-zero code is an error's. -/
theorem errorsArePrecise : Obligations.ErrorsArePrecise := by
  intro s t c hc h hcode
  rcases step_command hc h with ⟨i, v, s', -, -, rfl⟩ | ⟨k, -, -, rfl⟩
  · exact absurd (answered_lastCode v s') hcode
  · rfl

/-- R261: a delivered command has a next state, whether its word is legal or not. -/
theorem exists_step_of_deliverable {s : State} {c : Transaction} (hc : inFlight s = some c)
    (hd : deliverable c = true) : ∃ t, step s = .next t := by
  cases hi : decode c.cmd with
  | error why => exact ⟨_, step_eq_erred_of_illegal hc hd hi⟩
  | ok i =>
    rw [step_eq_exec hc hd hi]
    rcases exec_effect i s with ⟨v, s', he, -⟩ | ⟨k, -, -, he⟩
    · exact ⟨_, he⟩
    · exact ⟨_, he⟩

/-- R48: before its completion a command leaves ERR alone, but for a WRCSR to STATUS with bit 3 of the operand set, which
clears it. -/
theorem Effect.err_eq_or_cleared {i : Instr} {s s' : State} (e : Effect i s s') :
    s'.err = s.err ∨ (i = .wrcsr 0x020 ∧ (opa s).getLsbD 3 = true ∧ s'.err = false) := by
  rcases e.err_cases with herr | ⟨hi, herr⟩
  · exact .inl herr
  · rw [herr, errAfterStatusWrite_eq]
    cases hbit : (opa s).getLsbD 3 with
    | false => simp
    | true => simp [hi]

/-- Settles O54, by the two ways a command completes: code 0 after one of its effects, or an error. -/
theorem completionUpdatesStatus : Obligations.CompletionUpdatesStatus := by
  intro s c hc hd
  obtain ⟨t, ht⟩ := exists_step_of_deliverable hc hd
  rcases step_command hc ht with ⟨i, v, s', hi, e, rfl⟩ | ⟨k, hk, -, rfl⟩
  · refine ⟨_, 0, v, ht, answered_response v s', rfl, fun hne => absurd rfl hne, fun _ => ?_⟩
    rcases e.err_eq_or_cleared with herr | ⟨rfl, hbit, herr⟩
    · exact .inl herr
    · exact .inr ⟨hi, opa_of_inFlight hc ▸ hbit, herr⟩
  · exact ⟨_, codeNumber k, 0, ht, erred_response _ s, rfl, fun _ => ⟨rfl, rfl⟩,
      fun hzero => absurd (codeNumber_eq_zero.mp hzero) hk⟩

/-! ## The codes of each command (R220 to R226) -/

section
variable {i : Instr} {s t : State} (h : exec i s = .next t)
include h

theorem lastCode_of_exec_eq_answered {v : Word} {u : State} (he : exec i s = .next (answered v u)) : t.lastCode = 0 := by
  cases h.symm.trans he
  rfl

theorem lastCode_of_exec_eq_erred {c : Byte} (he : exec i s = .next (erred c s)) : t.lastCode = c := by
  cases h.symm.trans he
  rfl

/-- R223: a command that needs the parameter set completes with code 3 without it, and with it as its other rules say. -/
theorem lastCode_mem_of_needs_params {codes : List Byte}
    (hi : i ∈ [Instr.refMsb, .refLsb, .refCrc, .tblBuildMsb, .tblBuildLsb, .tblBuild, .tblMsb, .tblLsb, .crc])
    (h3 : 3 ∈ codes) (hvalid : s.paramsValid = true → t.lastCode ∈ codes) : t.lastCode ∈ codes := by
  cases hs : s.paramsValid with
  | false => exact lastCode_of_exec_eq_erred h (exec_of_notConfigured hs hi) ▸ h3
  | true => exact hvalid hs

/-- The three commands of the reference engine and the three builds: answered once the parameter set is there. -/
theorem lastCode_mem_of_paramsCommand {v : Word} {u : State}
    (hi : i ∈ [Instr.refMsb, .refLsb, .refCrc, .tblBuildMsb, .tblBuildLsb, .tblBuild])
    (hvalid : s.paramsValid = true → exec i s = .next (answered v u)) : t.lastCode ∈ [(0 : Byte), 3] := by
  refine lastCode_mem_of_needs_params h (List.mem_append_left [Instr.tblMsb, .tblLsb, .crc] hi) (by decide) fun hs => ?_
  simp [lastCode_of_exec_eq_answered h (hvalid hs)]

/-- The three commands that compute with a table: code 4 (R224) where it does not match their shape and the parameters
(R170). -/
theorem lastCode_mem_of_tableCommand {shape : Shape} {v : Word} {u : State} (hi : i ∈ [Instr.tblMsb, .tblLsb, .crc])
    (hno : s.paramsValid = true → ¬ Matching shape s → exec i s = .next (erred 4 s))
    (hyes : s.paramsValid = true → Matching shape s → exec i s = .next (answered v u)) :
    t.lastCode ∈ [(0 : Byte), 3, 4] := by
  refine lastCode_mem_of_needs_params h (List.mem_append_right
    [Instr.refMsb, .refLsb, .refCrc, .tblBuildMsb, .tblBuildLsb, .tblBuild] hi) (by decide) fun hs => ?_
  by_cases hm : Matching shape s
  · simp [lastCode_of_exec_eq_answered h (hyes hs hm)]
  · simp [lastCode_of_exec_eq_erred h (hno hs hm)]

end

section
variable {s t : State}

/-- R222: an unassigned CSR number. -/
theorem lastCode_mem_of_rdcsr {n : BitVec 12} (h : exec (.rdcsr n) s = .next t) : t.lastCode ∈ [(0 : Byte), 2] := by
  cases hn : csrNamed n with
  | none => simp [lastCode_of_exec_eq_erred h (exec_rdcsr_unassigned hn s)]
  | some r =>
    obtain rfl := csrNamed_eq_some.mp hn
    simp [lastCode_of_exec_eq_answered h (exec_rdcsr_csrNumber r s)]

/-- R222: an unassigned CSR number or a read-only register. -/
theorem lastCode_mem_of_wrcsr {n : BitVec 12} (h : exec (.wrcsr n) s = .next t) : t.lastCode ∈ [(0 : Byte), 2] := by
  cases hn : csrNamed n with
  | none => simp [lastCode_of_exec_eq_erred h (exec_wrcsr_unassigned hn s)]
  | some r =>
    obtain rfl := csrNamed_eq_some.mp hn
    cases hw : writeCsr r (opa s) s with
    | none => simp [lastCode_of_exec_eq_erred h (exec_wrcsr_csrNumber_of_none hw)]
    | some s' => simp [lastCode_of_exec_eq_answered h (exec_wrcsr_csrNumber_of_some hw)]

/-- R221: a width outside 1..64. -/
theorem lastCode_mem_of_configure (h : exec .configure s = .next t) : t.lastCode ∈ [(0 : Byte), 1] := by
  rcases exec_configure_cases s with ⟨-, he⟩ | ⟨-, he⟩
  · simp [lastCode_of_exec_eq_erred h he]
  · simp [lastCode_of_exec_eq_answered h he]

theorem lastCode_mem_of_bind (h : exec .bind s = .next t) : t.lastCode ∈ [(0 : Byte), 1] := by
  rcases exec_bind_cases s with ⟨-, he⟩ | ⟨-, he⟩
  · simp [lastCode_of_exec_eq_erred h he]
  · simp [lastCode_of_exec_eq_answered h he]

/-- R122: the width alone decides. -/
theorem lastCode_mem_of_reflect {rw : BitVec 7} (h : exec (.reflect rw) s = .next t) :
    t.lastCode ∈ if rw.toNat ≤ 64 then [(0 : Byte)] else [2] := by
  split
  · next hw => simp [lastCode_of_exec_eq_answered h (exec_reflect_of_le hw s)]
  · next hw => simp [lastCode_of_exec_eq_erred h (exec_reflect_of_gt (Nat.lt_of_not_le hw) s)]

/-- R224: no table was built since reset. -/
theorem lastCode_mem_of_tblRead {k : Byte} (h : exec (.tblRead k) s = .next t) : t.lastCode ∈ [(0 : Byte), 4] := by
  by_cases hv : s.tableValid = true
  · simp [lastCode_of_exec_eq_answered h (exec_tblRead_of_valid k hv)]
  · simp [lastCode_of_exec_eq_erred h (exec_tblRead_of_not_valid k hv)]

end

/-- Settles O55, one command at a time, by the checks that come before its answer. -/
theorem codesEachCommandCanRaise : Obligations.CodesEachCommandCanRaise := by
  intro i s t h
  cases i with
  | nop => exact List.mem_singleton.mpr (lastCode_of_exec_eq_answered h (exec_nop s))
  | rdcsr n => exact lastCode_mem_of_rdcsr h
  | wrcsr n => exact lastCode_mem_of_wrcsr h
  | configure => exact lastCode_mem_of_configure h
  | bind => exact lastCode_mem_of_bind h
  | reflect rw => exact lastCode_mem_of_reflect h
  | refMsb => exact lastCode_mem_of_paramsCommand h (by decide) exec_refMsb_of_valid
  | refLsb => exact lastCode_mem_of_paramsCommand h (by decide) exec_refLsb_of_valid
  | refCrc => exact lastCode_mem_of_paramsCommand h (by decide) exec_refCrc_of_valid
  | tblBuildMsb => exact lastCode_mem_of_paramsCommand h (by decide) exec_tblBuildMsb_of_valid
  | tblBuildLsb => exact lastCode_mem_of_paramsCommand h (by decide) exec_tblBuildLsb_of_valid
  | tblBuild => exact lastCode_mem_of_paramsCommand h (by decide) exec_tblBuild_of_valid
  | tblRead k => exact lastCode_mem_of_tblRead h
  | tblMsb => exact lastCode_mem_of_tableCommand h (by decide) exec_tblMsb_of_not_matching exec_tblMsb_of_matching
  | tblLsb => exact lastCode_mem_of_tableCommand h (by decide) exec_tblLsb_of_not_matching exec_tblLsb_of_matching
  | crc =>
    exact lastCode_mem_of_tableCommand h (by decide) exec_crc_of_not_matching fun hs hm => exec_crc_of_bound ⟨hs, hm⟩

end Sys2Proof.Machine
end

section
/-! SUPPORT. Noninterference, as a relation between two runs: what the commands that neither access a CSR nor construct
read, that the staging registers are no part of it (70_reset_and_hazards.md R254), and that TABLE is none while TABLE_VALID
is 0 (R251). -/

namespace Sys2Proof.Machine

/-! ## Results in pairs -/

/-- Two results that go together: next states that `R` relates, or one refusal. -/
inductive Paired (R : State → State → Prop) : Result → Result → Prop
  | next {s u : State} (h : R s u) : Paired R (.next s) (.next u)
  | refused (r : Refusal) : Paired R (.refused r) (.refused r)

section
variable {R R' : State → State → Prop} {a b a' b' : Result}

theorem Paired.mono (hR : ∀ s u, R s u → R' s u) (h : Paired R a b) : Paired R' a b := by
  cases h with
  | next h => exact .next (hR _ _ h)
  | refused r => exact .refused r

/-- A check that both runs decide alike. -/
theorem Paired.ite (p : Prop) [Decidable p] (h : Paired R a b) (h' : Paired R a' b') :
    Paired R (if p then a else a') (if p then b else b') := by
  split
  · exact h
  · exact h'

theorem Paired.exists_next (h : Paired R a b) {t : State} (ha : a = .next t) : ∃ u, b = .next u ∧ R t u := by
  cases h with
  | next h => cases ha; exact ⟨_, rfl, h⟩
  | refused => cases ha

theorem Paired.eq_refused (h : Paired R a b) {r : Refusal} (ha : a = .refused r) : b = .refused r := by
  cases h with
  | next => cases ha
  | refused => exact ha

end

/-! ## What the computing commands read -/

/-- The commands that neither access a CSR nor construct a parameter set. -/
def Computes : Instr → Prop
  | .rdcsr _ | .wrcsr _ | .configure | .bind => False
  | _ => True

/-- Two states with the same active set, the same tag and transaction, and the same table if it is valid. -/
structure SameInputs (s u : State) : Prop where
  activeSet_eq  : activeSet u = activeSet s
  tableValid_eq : u.tableValid = s.tableValid
  tblShape_eq   : u.tblShape = s.tblShape
  tblWidth_eq   : u.tblWidth = s.tblWidth
  tblPoly_eq    : u.tblPoly = s.tblPoly
  table_eq      : s.tableValid = true → u.table = s.table
  host_eq       : u.host = s.host

/-- What a command that computes or builds leaves of two states: the same completion, of the states themselves or with the
same table installed in both. -/
inductive SameCompletion (s u : State) : State → State → Prop
  | computed (c : Code) (v : Word) : SameCompletion s u (complete c v s) (complete c v u)
  | built (shape : Shape) (w p : Word) :
      SameCompletion s u (complete .ok 0 (tableInstall shape w p s)) (complete .ok 0 (tableInstall shape w p u))

section
variable {s u : State}

theorem paired_respond (v : Word) : Paired (SameCompletion s u) (respond v s) (respond v u) := .next (.computed .ok v)

theorem paired_raise (c : Code) : Paired (SameCompletion s u) (raise c s) (raise c u) := .next (.computed c 0)

theorem paired_build (shape : Shape) (w p : Word) : Paired (SameCompletion s u)
    (respond 0 (tableInstall shape w p s)) (respond 0 (tableInstall shape w p u)) := .next (.built shape w p)

section
variable (h : SameInputs s u)
include h

theorem SameInputs.paramsValid_eq : u.paramsValid = s.paramsValid := congrArg Prod.fst h.activeSet_eq

theorem SameInputs.parWidth_eq : u.parWidth = s.parWidth := congrArg (·.2.1) h.activeSet_eq

theorem SameInputs.parPoly_eq : u.parPoly = s.parPoly := congrArg (·.2.2.1) h.activeSet_eq

theorem SameInputs.parRefin_eq : u.parRefin = s.parRefin := congrArg (·.2.2.2.2.2.1) h.activeSet_eq

theorem SameInputs.params_eq : params u = params s := params_congr h.activeSet_eq

theorem SameInputs.opa_eq : opa u = opa s := opa_congr h.host_eq

theorem SameInputs.msg_eq : msg u = msg s := msg_congr h.host_eq

theorem SameInputs.tableMatches_eq (shape : Shape) : tableMatches shape u = tableMatches shape s := by
  simp only [tableMatches, h.tableValid_eq, h.tblShape_eq, h.tblWidth_eq, h.tblPoly_eq, h.parWidth_eq, h.parPoly_eq]

/-- A command reads the table after a check that TABLE_VALID = 1 is part of. -/
theorem SameInputs.paired_table (p : Prop) [Decidable p] (hp : p → s.tableValid = true) (f : Table → Word) :
    Paired (SameCompletion s u) (if p then respond (f s.table) s else raise .noTable s)
      (if p then respond (f u.table) u else raise .noTable u) := by
  split
  · next hcheck => rw [h.table_eq (hp hcheck)]; exact paired_respond _
  · exact paired_raise _

theorem SameInputs.paired_matching (shape : Shape) (f : Table → Word) : Paired (SameCompletion s u)
    (if tableMatches shape s then respond (f s.table) s else raise .noTable s)
    (if tableMatches shape s then respond (f u.table) u else raise .noTable u) := by
  refine h.paired_table _ (fun hm => ?_) f
  obtain ⟨hvalid, -⟩ := (tableMatches_iff shape s).mp hm
  exact hvalid

end

theorem SameInputs.paired_exec (h : SameInputs s u) {i : Instr} (hi : Computes i) :
    Paired (SameCompletion s u) (exec i s) (exec i u) := by
  cases i with
  | rdcsr | wrcsr | configure | bind => exact hi.elim
  | nop => exact paired_respond 0
  | reflect rw =>
    simp only [exec, execReflect, h.opa_eq]
    exact .ite _ (paired_raise _) (paired_respond _)
  | refMsb =>
    simp only [exec, execRefMsb, h.paramsValid_eq, h.params_eq, h.msg_eq]
    exact .ite _ (paired_respond _) (paired_raise _)
  | refLsb =>
    simp only [exec, execRefLsb, h.paramsValid_eq, h.params_eq, h.msg_eq]
    exact .ite _ (paired_respond _) (paired_raise _)
  | refCrc =>
    simp only [exec, execRefCrc, h.paramsValid_eq, h.params_eq, h.msg_eq]
    exact .ite _ (paired_respond _) (paired_raise _)
  | tblBuildMsb =>
    simp only [exec, execTblBuildMsb, h.paramsValid_eq, h.parWidth_eq, h.parPoly_eq]
    exact .ite _ (paired_build ..) (paired_raise _)
  | tblBuildLsb =>
    simp only [exec, execTblBuildLsb, h.paramsValid_eq, h.parWidth_eq, h.parPoly_eq]
    exact .ite _ (paired_build ..) (paired_raise _)
  | tblBuild =>
    simp only [exec, execTblBuild, h.paramsValid_eq, h.parWidth_eq, h.parPoly_eq, h.parRefin_eq]
    exact .ite _ (paired_build ..) (paired_raise _)
  | tblRead k =>
    simp only [exec, execTblRead, h.tableValid_eq]
    exact h.paired_table _ id fun T => tableEntry T k
  | tblMsb =>
    simp only [exec, execTblMsb, h.paramsValid_eq, h.params_eq, h.msg_eq, h.tableMatches_eq]
    exact .ite _ (h.paired_matching .msb fun T => tblMsb T (params s) (msg s)) (paired_raise _)
  | tblLsb =>
    simp only [exec, execTblLsb, h.paramsValid_eq, h.params_eq, h.msg_eq, h.tableMatches_eq]
    exact .ite _ (h.paired_matching .lsb fun T => tblLsb T (params s) (msg s)) (paired_raise _)
  | crc =>
    simp only [exec, execCrc, h.paramsValid_eq, h.params_eq, h.msg_eq, h.parRefin_eq, h.tableMatches_eq]
    refine .ite _ ?_ (paired_raise _)
    cases s.parRefin with
    | true => exact h.paired_matching .lsb fun T => tblLsb T (params s) (msg s)
    | false => exact h.paired_matching .msb fun T => tblMsb T (params s) (msg s)

end

/-! ## The staging registers (R254) -/

theorem sameInputs_restage (s u : State) : SameInputs s (restage s u) where
  activeSet_eq  := restage_activeSet s u
  tableValid_eq := rfl
  tblShape_eq   := rfl
  tblWidth_eq   := rfl
  tblPoly_eq    := rfl
  table_eq _    := rfl
  host_eq       := rfl

/-- A completion leaves the staging registers as they are. -/
theorem SameCompletion.eq_restage {s u t t' : State} (h : SameCompletion s (restage s u) t t') : t' = restage t u := by
  cases h with
  | computed c v => rfl
  | built shape w p => rfl

/-- Settles O58: the twelve commands do not read the staging registers, and their completions leave them. -/
theorem stagingReachesNoComputation : Obligations.StagingReachesNoComputation := by
  intro i s t u hi ht
  have hcomputes : Computes i := by cases i <;> exact hi
  obtain ⟨t', ht', hcompletion⟩ := ((sameInputs_restage s u).paired_exec hcomputes).exists_next ht
  rw [ht', hcompletion.eq_restage]

/-! ## TABLE before a build (R251) -/

/-- The two-run invariant: the states differ in TABLE at most, and not even there once TABLE_VALID is 1. -/
def AgreeButInvalidTable (s u : State) : Prop :=
  ∃ T, u = { s with table := T } ∧ (s.tableValid = true → T = s.table)

theorem AgreeButInvalidTable.refl (s : State) : AgreeButInvalidTable s s := ⟨s.table, rfl, fun _ => rfl⟩

section
variable {s u : State} (h : AgreeButInvalidTable s u)
include h

theorem AgreeButInvalidTable.sameInputs : SameInputs s u := by
  obtain ⟨T, rfl, hT⟩ := h
  exact ⟨rfl, rfl, rfl, rfl, rfl, hT, rfl⟩

/-! ### The updates of the state -/

theorem AgreeButInvalidTable.after_complete (c : Code) (v : Word) :
    AgreeButInvalidTable (complete c v s) (complete c v u) := by
  obtain ⟨T, rfl, hT⟩ := h
  exact ⟨T, rfl, hT⟩

/-- R154: a build writes every entry, so no difference is left. -/
theorem AgreeButInvalidTable.after_tableInstall (shape : Shape) (w p : Word) :
    AgreeButInvalidTable (tableInstall shape w p s) (tableInstall shape w p u) := by
  obtain ⟨T, rfl, -⟩ := h
  exact ⟨buildTable shape w.toNat p, (rfl), fun _ => (rfl)⟩

theorem AgreeButInvalidTable.after_completion {t t' : State} (hc : SameCompletion s u t t') :
    AgreeButInvalidTable t t' := by
  cases hc with
  | computed c v => exact h.after_complete c v
  | built shape w p => exact (h.after_tableInstall shape w p).after_complete .ok 0

theorem AgreeButInvalidTable.rel_writeCsr (r : Csr) (v : Word) :
    Option.Rel AgreeButInvalidTable (writeCsr r v s) (writeCsr r v u) := by
  obtain ⟨T, rfl, hT⟩ := h
  cases r with
  | cfgWidth | cfgPoly | cfgInit | cfgXorout | cfgFlags | status => exact .some ⟨T, rfl, hT⟩
  | id | parWidth | parPoly | parInit | parXorout | parFlags | tblWidth | tblPoly | tblEntryBytes => exact .none

theorem AgreeButInvalidTable.rel_constructParams :
    Option.Rel AgreeButInvalidTable (constructParams s) (constructParams u) := by
  obtain ⟨T, rfl, hT⟩ := h
  unfold constructParams
  split
  · exact .none
  · exact .some ⟨T, rfl, hT⟩

/-- No register is read from the table. -/
theorem AgreeButInvalidTable.readCsr_eq (r : Csr) : readCsr r u = readCsr r s := by
  obtain ⟨T, rfl, -⟩ := h
  cases r <;> rfl

/-! ### The commands -/

theorem AgreeButInvalidTable.paired_raise (c : Code) : Paired AgreeButInvalidTable (raise c s) (raise c u) :=
  .next (h.after_complete c 0)

theorem AgreeButInvalidTable.paired_respond (v : Word) : Paired AgreeButInvalidTable (respond v s) (respond v u) :=
  .next (h.after_complete .ok v)

theorem AgreeButInvalidTable.paired_rdcsr (n : BitVec 12) :
    Paired AgreeButInvalidTable (exec (.rdcsr n) s) (exec (.rdcsr n) u) := by
  simp only [exec, execRdcsr, h.readCsr_eq]
  cases csrNamed n with
  | none => exact h.paired_raise _
  | some r => exact h.paired_respond _

theorem AgreeButInvalidTable.paired_wrcsr (n : BitVec 12) :
    Paired AgreeButInvalidTable (exec (.wrcsr n) s) (exec (.wrcsr n) u) := by
  simp only [exec, execWrcsr, h.sameInputs.opa_eq]
  cases csrNamed n with
  | none => exact h.paired_raise _
  | some r =>
    have hrel := h.rel_writeCsr r (opa s)
    simp only [Option.bind_some]
    generalize writeCsr r (opa s) s = o, writeCsr r (opa s) u = o' at hrel
    cases hrel with
    | some hwritten => exact hwritten.paired_respond 0
    | none => exact h.paired_raise _

theorem AgreeButInvalidTable.paired_configure :
    Paired AgreeButInvalidTable (exec .configure s) (exec .configure u) := by
  have hrel := h.rel_constructParams
  simp only [exec, execConfigure]
  generalize constructParams s = o, constructParams u = o' at hrel
  cases hrel with
  | some hconstructed => exact hconstructed.paired_respond 0
  | none => exact h.paired_raise _

theorem AgreeButInvalidTable.paired_bind : Paired AgreeButInvalidTable (exec .bind s) (exec .bind u) := by
  have hrel := h.rel_constructParams
  simp only [exec, execBind]
  generalize constructParams s = o, constructParams u = o' at hrel
  cases hrel with
  | none => exact h.paired_raise _
  | some hconstructed =>
    have hinputs := hconstructed.sameInputs
    simp only [hinputs.parWidth_eq, hinputs.parPoly_eq, hinputs.parRefin_eq]
    exact (hconstructed.after_tableInstall ..).paired_respond 0

theorem AgreeButInvalidTable.paired_exec (i : Instr) : Paired AgreeButInvalidTable (exec i s) (exec i u) := by
  cases i with
  | rdcsr n => exact h.paired_rdcsr n
  | wrcsr n => exact h.paired_wrcsr n
  | configure => exact h.paired_configure
  | bind => exact h.paired_bind
  | nop | reflect | refMsb | refLsb | refCrc | tblBuildMsb | tblBuildLsb | tblBuild | tblRead | tblMsb | tblLsb | crc =>
    exact Paired.mono (fun _ _ => h.after_completion) (h.sameInputs.paired_exec trivial)

/-- R251 as a step lemma: every step keeps the two-run invariant. -/
theorem AgreeButInvalidTable.paired_step : Paired AgreeButInvalidTable (step s) (step u) := by
  have hhost := h.sameInputs.host_eq
  simp only [step, hhost]
  cases s.host with
  | nil => exact .next h
  | cons m rest =>
    cases m with
    | reset | resetDuring => simp only [takeReset, hhost]; exact .next (.refl _)
    | command t =>
      refine .ite _ ?_ (.refused _)
      cases decode t.cmd with
      | ok i => exact h.paired_exec i
      | error why => exact h.paired_raise .illegalCommand

end

/-- Settles O59: two states that differ in an invalid table meet the two-run invariant, and so do their steps. -/
theorem invalidTableIsUnobservable : Obligations.InvalidTableIsUnobservable := by
  intro s T hinvalid
  have hagree : AgreeButInvalidTable s { s with table := T } := ⟨T, rfl, fun hvalid => by simp [hinvalid] at hvalid⟩
  refine ⟨fun t ht => ?_, fun r => hagree.paired_step.eq_refused⟩
  obtain ⟨_, hu, T', rfl, hT'⟩ := hagree.paired_step.exists_next ht
  exact ⟨T', hu, hT'⟩

end Sys2Proof.Machine
end

section
/-! SUPPORT. The completion of a delivered command (R261), what a reset leaves (R250), and what a successful CONFIGURE does
to an installed table (70_reset_and_hazards.md R255). -/

namespace Sys2Proof.Machine

/-! ## Completion (R261) -/

/-- Settles O6, from the response each completion sends and the move each step takes. -/
theorem everyDeliveredCommandCompletes : Obligations.EveryDeliveredCommandCompletes := by
  intro s t hf hd
  obtain ⟨u, code, result, hstep, hresponse, hcode, -⟩ := completionUpdatesStatus s t hf hd
  exact ⟨u, _, hstep, hresponse, hcode, step_host hstep⟩

/-! ## Reset (R250) -/

/-- Settles O9: the values after reset do not depend on the host's later moves. -/
theorem resetSetsEveryField : Obligations.ResetSetsEveryField := by
  unfold Obligations.ResetSetsEveryField
  intro zero
  have hzero (moves : List HostMove) : zero { State.reset with host := moves } := by
    simp [zero, State.reset, CoreState.reset]
  exact ⟨hzero [], fun _ _ rest hs hm => ⟨_, step_reset hs hm, hzero rest, rfl⟩⟩

/-- Settles O47: the machine's reset state is the one with no host move to come. -/
theorem resetMeetsTheInvariant : Obligations.ResetMeetsTheInvariant := inv_reset_withHost []

/-! ## A table that was there before CONFIGURE (R255) -/

section
variable {shape : Shape} {s u : State} (hm : Matching shape s) (htable : tableSet u = tableSet s)
include hm htable

/-- With its tag unchanged, the table matches while the active width and polynomial are the ones it was built for. -/
theorem matching_of_same_width_poly (hw : u.parWidth = s.parWidth) (hp : u.parPoly = s.parPoly) : Matching shape u := by
  simp only [tableSet, Prod.mk.injEq] at htable
  obtain ⟨-, hvalid, hshape, hwidth, hpoly⟩ := htable
  rwa [Matching, hvalid, hshape, hwidth, hpoly, hw, hp]

/-- Once they are not, it matches in no shape. -/
theorem not_matching_of_other_width_poly (h : u.parWidth ≠ s.parWidth ∨ u.parPoly ≠ s.parPoly) (shape' : Shape) :
    ¬ Matching shape' u := by
  simp only [tableSet, Prod.mk.injEq] at htable
  obtain ⟨-, -, -, hwidth, hpoly⟩ := htable
  obtain ⟨-, -, hw, hp⟩ := hm
  rintro ⟨-, -, hw', hp'⟩
  rcases h with h | h
  · exact h (by rw [← hw', hwidth, hw])
  · exact h (by rw [← hp', hpoly, hp])

end

/-- A table has one shape, so it is bound for one value of `refin` only. -/
theorem not_matching_of_other_refin {s u : State} (hb : Bound s) (htable : tableSet u = tableSet s)
    (h : u.parRefin ≠ s.parRefin) : ¬ Matching (shapeOfRefin u.parRefin) u := by
  simp only [tableSet, Prod.mk.injEq] at htable
  obtain ⟨-, -, hshape, -⟩ := htable
  obtain ⟨-, -, hs, -⟩ := hb
  rintro ⟨-, hu, -⟩
  refine shapeOfRefin_not_ne s.parRefin ?_
  rw [← Bool.eq_not.mpr h, ← hu, hshape, hs, shapeOfRefin_eq]

theorem bound_of_same_parameters {s u : State} (hb : Bound s) (htable : tableSet u = tableSet s)
    (hv : u.paramsValid = true) (hw : u.parWidth = s.parWidth) (hp : u.parPoly = s.parPoly)
    (hr : u.parRefin = s.parRefin) : Bound u := by
  obtain ⟨-, hm⟩ := hb
  exact ⟨hv, hr ▸ matching_of_same_width_poly hm htable hw hp⟩

/-- A CONFIGURE that succeeds leaves the table and its tag, with a constructed parameter set. -/
theorem tableSet_of_exec_configure {s t : State} (h : exec .configure s = .next t) (hcode : t.lastCode = 0) :
    tableSet t = tableSet s := by
  rcases exec_configure_cases s with ⟨-, he⟩ | ⟨-, he⟩ <;> cases h.symm.trans he
  · simp at hcode
  · rfl

/-- Settles O45: the tag stays and the parameters may change, and each command's check compares the two. -/
theorem staleTableIsRefused : Obligations.StaleTableIsRefused := by
  intro shape s t moves hm hexec hcode u
  have htable : tableSet u = tableSet s := tableSet_of_exec_configure (t := t) hexec hcode
  have hvalid : u.paramsValid = true := exec_construction_sets_paramsValid (t := t) (.inl hexec) hcode
  refine ⟨congrArg Prod.fst htable, fun hw hp => ⟨?_, fun hb hr => ?_, fun hb hr => ?_⟩, fun hne => ?_⟩
  · exact matching_of_same_width_poly hm htable hw hp
  · exact bound_of_same_parameters hb htable hvalid hw hp hr
  · exact exec_crc_of_not_matching hvalid (not_matching_of_other_refin hb htable hr)
  · have hno := not_matching_of_other_width_poly hm htable hne
    exact ⟨exec_tblMsb_of_not_matching hvalid (hno _), exec_tblLsb_of_not_matching hvalid (hno _),
      exec_crc_of_not_matching hvalid (hno _)⟩

end Sys2Proof.Machine
end
